-- ==== Sys2Proof/Word.lean ====
section
/-!
DEFINITION. The word types of the block (spec 00_scope R8, R9: unsigned bit-vectors, bit 0 the
least significant).
-/

namespace Sys2Proof

/-- A byte of a transfer buffer (20_memory R60), and the width of CFG_MODE, CFG_BPW and EXIT. -/
abbrev Byte := BitVec 8

/-- The 16-bit values: the DAC Command Word, the data code, the Transfer Result, the delay. -/
abbrev Half := BitVec 16

/-- The 32-bit values: an HC32 host command, STATUS, the clock speed in Hz. -/
abbrev Word := BitVec 32

/-- A binary64 value as its 64 bits (41_conversion R130). -/
abbrev F64Bits := BitVec 64

end Sys2Proof
end

