-- ==== Sys2Proof/Config.lean ====
section
/-!
DEFINITION. What an implementation fixes, and the values the spec leaves open.

Constants with a body are the values the spec decides (00_scope R7). An `opaque` constant has no
body: no proof can learn its value, so a claim is true whatever it is.
-/

namespace Sys2Proof

/-- The Link Configuration record of 10_state R22: the CFG_* registers and the CFG_IN port. -/
structure LinkConfig where
  /-- the device path; never interpreted by the block (R23) -/
  path  : String
  /-- the eight mode flags (R26, R27) -/
  mode  : Byte
  /-- bits per word (R29) -/
  bpw   : Byte
  /-- clock speed in Hz (R30) -/
  speed : Word
  /-- inter-transfer delay in microseconds (R31) -/
  delay : Half
  deriving DecidableEq, Repr

/-- The three link parameters the controller is configured with (42_link_config R178). -/
inductive Param where
  | mode
  | bpw
  | speed
  deriving DecidableEq, Repr

/-- The transfer descriptor handed to the controller (43_transfer R190, R192). -/
structure Desc where
  /-- the word of the transmit buffer -/
  tx           : Half
  /-- the length in bytes, CFG_BPW / 8 -/
  len          : Nat
  delayUs      : Half
  speedHz      : Word
  bitsPerWord  : Byte
  deriving DecidableEq, Repr

/-- A request the block makes of the SPI controller (42_link_config R178). A value written is
zero-extended to 32 bits. -/
inductive CtrlReq where
  | openDev (path : String)
  | write (p : Param) (v : Word)
  | read (p : Param)
  | xfer (d : Desc)
  deriving DecidableEq, Repr

/-- What a draw is taken for (00_scope R10: a value supplied by the controller, the external
device or the host). -/
inductive Query where
  /-- the controller's answer to a request (42_link_config R178) -/
  | ctrl (r : CtrlReq)
  /-- the voltage typed at the prompt (45_host_sequences R223) -/
  | prompt
  /-- what became of a request that was cut off: what the DAC took of a transfer (43_transfer R199),
  the controller's settings after any other request (60_exceptions R256) -/
  | cutOff (r : CtrlReq)
  deriving DecidableEq, Repr

/-- One draw: everything the environment may supply at one query. A query reads only the fields
that concern it (log 1). -/
structure Draw where
  /-- whether the controller answers now (60_exceptions R257) -/
  answered : Bool
  /-- OK or FAIL (42_link_config R178) -/
  ok       : Bool
  /-- the value read back; the low 8 bits for mode and bits-per-word (R178) -/
  value    : Word
  /-- the byte count of a transfer; negative for an error return (43_transfer R194) -/
  count    : Int
  /-- the received word, assembled as R196 says -/
  miso     : Half
  /-- the word the DAC took where the spec does not fix it; none: it took nothing (R199) -/
  dacTakes : Option Half
  /-- the voltage at the prompt (41_conversion R130) -/
  volts    : F64Bits
  /-- the controller's mode setting from now on, where nothing fixes it (10_state R45, log 2) -/
  setMode  : Byte
  /-- its bits-per-word setting -/
  setBpw   : Byte
  /-- its speed setting -/
  setSpeed : Word
  deriving DecidableEq, Repr, Inhabited

/-- What may arrive between commands or while one waits: the kill (60_exceptions R256),
`usage_stop` (45_host_sequences R229) and reset (70_reset_and_hazards R270) from the host, and, while
an XFER waits, a 16-bit word at the DAC's serial input (43_transfer R199, log 11). -/
inductive Event where
  | kill
  | usageStop
  | reset
  | dacWord (w : Half)
  deriving DecidableEq, Repr

/-- VARIANT: which of the two host programs runs (00_scope R7, 45_host_sequences R223, R224). -/
inductive Variant where
  | session
  | oneshot
  deriving DecidableEq, Repr

/-- VARIANT's default, SESSION (00_scope R7). -/
def Config.defaultVariant : Variant := .session

/-- Host byte order of the transfer buffers (20_memory R61). -/
inductive Endian where
  | little
  | big
  deriving DecidableEq, Repr, Inhabited

/-- DEFAULT_MODE = 0x00 (10_state R28). -/
def Config.defaultMode : Byte := 0x00#8

/-- DEFAULT_BPW = 16 (10_state R29). -/
def Config.defaultBpw : Byte := 16#8

/-- DEFAULT_DELAY_US = 0 (10_state R31). -/
def Config.defaultDelay : Half := 0#16

/-- VREF's default, the binary64 number 5.0 (41_conversion R136). -/
def Config.defaultVref : F64Bits := 0x4014000000000000#64

/-- DEFAULT_DEVICE, an open parameter (10_state R23, log 3). -/
opaque Config.defaultDevice : String

/-- DEFAULT_SPEED_HZ, an open parameter (10_state R30, log 3). -/
opaque Config.defaultSpeedHz : Word

/-- The open choice behind ABORT_STATUS (10_state R51, log 8). -/
opaque Config.abortChoice : Byte

/-- ABORT_STATUS: open, but nonzero (10_state R51): every nonzero byte is possible and 0 is not. -/
def Config.abortStatus : Byte := if Config.abortChoice = 0#8 then 1#8 else Config.abortChoice

/-- KILL_STATUS, an open parameter (10_state R51, log 8). -/
opaque Config.killStatus : Byte

/-- HOST_ENDIAN, an open parameter that no rule's result depends on (20_memory R61, log 9). -/
opaque Config.hostEndian : Endian

/-- The DAC's latched data at reset, unknown (10_state R46, R49, log 10). -/
opaque Config.dacAtReset : Half

/-- The controller's settings at reset, unknown (10_state R45, R49, log 2). -/
opaque Config.ctrlModeAtReset : Byte
opaque Config.ctrlBpwAtReset : Byte
opaque Config.ctrlSpeedAtReset : Word

/-- The free event: what arrives at the n-th step, if anything (00_scope R16, log 7). -/
opaque Config.freeEvent : Nat → Option Event

/-- The free value: the draw taken at the n-th query, afresh each time and free to depend on what
is asked (00_scope R10, log 1). -/
opaque Config.freeDraw : Nat → Query → Draw

end Sys2Proof
end

