-- ==== Sys2Proof/Syntax.lean ====
section
/-!
DEFINITION. The instructions: one constructor per row of spec/opcode_table.json, and the two word
formats they come in (30_encoding R80, R84).
-/

namespace Sys2Proof

/-- The rows of spec/opcode_table.json, in its order. -/
inductive Instr where
  /-- LDCFG: latch the Link Configuration (42_link_config R150) -/
  | ldcfg
  /-- OPEN: open the device (R152) -/
  | openDev
  /-- WRMODE: write the mode (R156) -/
  | wrmode
  /-- RDMODE: read the mode back and compare (R160) -/
  | rdmode
  /-- WRBPW: write bits-per-word (R164) -/
  | wrbpw
  /-- RDBPW: read bits-per-word back and compare (R166) -/
  | rdbpw
  /-- WRSPD: write the speed (R170) -/
  | wrspd
  /-- RDSPD: read the speed back and compare (R172) -/
  | rdspd
  /-- CONV: voltage to code (41_conversion R131) -/
  | conv
  /-- LDD #imm: load the data code (40_encoder R110) -/
  | ldd (imm : Half)
  /-- ENC ch, buf, g2x: pack the Command Word (40_encoder R112) -/
  | enc (ch buf g2x : Bool)
  /-- XFER: exchange one word (43_transfer R190) -/
  | xfer
  /-- CLOSE: release the handle (42_link_config R176) -/
  | close
  /-- OP 0x0, reserved, with the word's other 28 bits (30_encoding R90) -/
  | reservedOp0 (low : BitVec 28)
  /-- OP 0xE, reserved (R90) -/
  | reservedOpE (low : BitVec 28)
  /-- OP 0xF, reserved (R90) -/
  | reservedOpF (low : BitVec 28)
  /-- the 16-bit DAC Command Word: CH, BUF, GA_N and D as they stand in the word (R80) -/
  | dacwr (ch buf gaN : Bool) (data : BitVec 10)
  deriving DecidableEq, Repr

/-- A word in one of the two formats of 30_encoding: HC32 or CW16. -/
inductive CodeWord where
  | hc32 (w : Word)
  | cw16 (w : Half)
  deriving DecidableEq, Repr

/-- Where a word arrives: a host command on CMD (10_state R20), a command word at the DAC's
serial input (43_transfer R205). -/
inductive Port where
  | cmd
  | dac
  deriving DecidableEq, Repr

/-- The port a word format belongs to. -/
def CodeWord.port : CodeWord → Port
  | .hc32 _ => .cmd
  | .cw16 _ => .dac

/-- An assembler line after lexing (30_encoding R94); the operand of LDD is the number as written,
not yet checked, and an ENC flag may be left out. -/
inductive AsmLine where
  | plain (i : Instr)
  | ldd (n : Nat)
  | enc (ch buf g2x : Option Bool)
  deriving DecidableEq, Repr

end Sys2Proof
end

