-- ==== Sys2Proof/Machine/State.lean ====
section
/-!
DEFINITION. The machine's state: the block's registers (10_state R21), its ports, the host, the
SPI controller, the DAC, and the draws to come. Plain data throughout. `none` in a register is the
spec's own "no value", written ⊥ (00_scope R10).
-/

namespace Sys2Proof
namespace Machine

/-- PHASE, the block's control state (10_state R36): 0 IDLE, 1 CLOSED, 2 OPEN, 3 STOPPED. -/
inductive Phase where
  | idle
  | closed
  | opened
  | stopped
  deriving DecidableEq, Repr

/-- How far a parameter's write-then-read-back verification has got (10_state R37, R38). The field
value 3 never occurs. -/
inductive VerState where
  | none
  | written
  | verified
  deriving DecidableEq, Repr

/-- The error codes of 60_exceptions R240, in the order of their numbers 0 to 17. -/
inductive ErrCode where
  | none
  | cfgOpen
  | cfgWrMode
  | cfgRdMode
  | cfgModeMismatch
  | cfgWrBpw
  | cfgRdBpw
  | cfgBpwMismatch
  | cfgWrSpeed
  | cfgRdSpeed
  | cfgSpeedMismatch
  | xferShort
  | usage
  | convRange
  | illegalCommand
  | unwritten
  | sequence
  | unmodelledBpw
  deriving DecidableEq, Repr

/-- The fields of STATUS (10_state R37). The register is read-only to the host, so its reserved
bits, which read as 0, need no storage; the 32-bit word is `Status.word`. -/
structure Status where
  phase      : Phase
  modeSt     : VerState
  bpwSt      : VerState
  spdSt      : VerState
  killed     : Bool
  faultClass : Bool
  err        : ErrCode
  deriving DecidableEq, Repr

/-- The outcome field of a WIRE_LOG entry (10_state R44). -/
inductive WireOutcome where
  | ok
  | short
  | killed
  deriving DecidableEq, Repr

/-- A WIRE_LOG entry (10_state R44). -/
structure WireEntry where
  word    : Half
  mode    : Byte
  bpw     : Byte
  speed   : Word
  delay   : Half
  outcome : WireOutcome
  miso    : Option Half
  deriving DecidableEq, Repr

/-- The SPI controller (10_state R45): whether it holds the block's handle, its three settings, and
for each parameter the last value it accepted since the open, `none` before any write (42_link_config
R180, log 2). -/
structure Ctrl where
  held       : Bool
  mode       : Byte
  bpw        : Byte
  speed      : Word
  wroteMode  : Option Byte
  wroteBpw   : Option Byte
  wroteSpeed : Option Word
  deriving DecidableEq, Repr

/-- The registers RD_SEL selects (10_state R21, R50). -/
inductive RegSel where
  | cfgPath
  | cfgMode
  | cfgBpw
  | cfgSpeed
  | cfgDelay
  | rbMode
  | rbBpw
  | rbSpeed
  | dreg
  | txw
  | rxw
  | echo
  | status
  | exit
  | wireLog
  deriving DecidableEq, Repr

/-- What RD_DATA shows: a value, the path as a string, the log, or ⊥ (10_state R20, R50). DESIGN
CHOICE: a value of fewer than 32 bits is shown zero-extended, and WIRE_LOG is shown whole in one read;
the spec gives the port 32 bits and does not say how a list is shown on it (log 19). -/
inductive RdData where
  | word (w : Word)
  | text (t : String)
  | log (l : List WireEntry)
  | noValue
  deriving DecidableEq, Repr

/-- Where the VIN of a host command comes from: the port keeps what it shows, the program gives a
value, or the host prompts for one (45_host_sequences R222, R223, R231). -/
inductive VinSource where
  | hold
  | value (v : F64Bits)
  | prompt
  deriving DecidableEq, Repr

/-- One element of a host program: a command word, the port values presented with it
(45_host_sequences R231), and the registers the host reads when it has completed (R222, log 18).
`none` for CFG_IN: the port keeps what it shows. -/
structure HostCmd where
  word  : Word
  cfgIn : Option LinkConfig
  vin   : VinSource
  reads : List RegSel := []
  deriving DecidableEq, Repr

/-- A host program, its counter hpc, and the target of its loop if it has one
(45_host_sequences R223, R231). -/
structure HostProgram where
  cmds   : List HostCmd
  hpc    : Nat
  loopTo : Option Nat
  deriving DecidableEq, Repr

/-- The whole state. -/
structure State where
  /-- CFG_PATH, CFG_MODE, CFG_BPW, CFG_SPEED, CFG_DELAY (10_state R21 to R31) -/
  cfg       : LinkConfig
  /-- RB_MODE (R32) -/
  rbMode    : Option Byte
  /-- RB_BPW (R32) -/
  rbBpw     : Option Byte
  /-- RB_SPEED (R32) -/
  rbSpeed   : Option Word
  /-- DREG (R33) -/
  dreg      : Option Half
  /-- TXW (R34) -/
  txw       : Option Half
  /-- RXW (R35) -/
  rxw       : Option Half
  /-- STATUS (R37) -/
  status    : Status
  /-- EXIT (R51) -/
  exit      : Option Byte
  /-- WIRE_LOG, oldest entry first (R44) -/
  wireLog   : List WireEntry
  /-- the CFG_IN port (R20, R22, log 4) -/
  cfgIn     : LinkConfig
  /-- the VIN port (R20, 41_conversion R130, log 4) -/
  vin       : F64Bits
  /-- VREF, wired to the block and constant for the run (41_conversion R136, log 15) -/
  vref      : F64Bits
  /-- the request whose answer a command waits for (20_memory R66, 60_exceptions R257) -/
  waiting   : Option CtrlReq
  /-- the SPI controller (10_state R45) -/
  ctrl      : Ctrl
  /-- the DAC's latched data, the last word it read (10_state R46, 43_transfer R205, log 10) -/
  dacWord   : Half
  /-- the host's program; none: no command has been presented yet (70_reset_and_hazards R271) -/
  host      : Option HostProgram
  /-- what arrives at the coming steps, if anything; after them the free event (log 7) -/
  inbox     : List (Option Event)
  /-- how many steps have been taken (log 7) -/
  eventCount : Nat
  /-- what the host has read through the read port, oldest first (10_state R50, log 18) -/
  hostReads : List (RegSel × RdData)
  /-- the draws the environment will make next; after them the free value (log 1) -/
  draws     : List Draw
  /-- how many draws have been taken (log 1) -/
  drawCount : Nat
  deriving DecidableEq, Repr

/-- Why a step would stop the machine. It has no constructor: every error of this hardware has an
entry that the spec describes (60_exceptions R250), so each is taken as a next state. -/
inductive Fault where
  deriving DecidableEq, Repr

/-- Why a step would have no meaning for an instruction. -/
inductive Refusal where
  /-- Raised only by an arm of `exec` whose instruction has no meaning yet; there is none. Safe. -/
  | notModelled (mnemonic : String)
  deriving DecidableEq, Repr

/-- The Link Configuration before any option: the reset values of the CFG_* registers
(10_state R49). -/
def defaultCfg : LinkConfig where
  path := Config.defaultDevice
  mode := Config.defaultMode
  bpw := Config.defaultBpw
  speed := Config.defaultSpeedHz
  delay := Config.defaultDelay

/-- STATUS at reset: 0x00000000 (10_state R37). -/
def resetStatus : Status where
  phase := .idle
  modeSt := .none
  bpwSt := .none
  spdSt := .none
  killed := false
  faultClass := false
  err := .none

/-- The controller at reset: no open handle (70_reset_and_hazards R271), its settings unknown, any
value (10_state R49). -/
def resetCtrl : Ctrl where
  held := false
  mode := Config.ctrlModeAtReset
  bpw := Config.ctrlBpwAtReset
  speed := Config.ctrlSpeedAtReset
  wroteMode := none
  wroteBpw := none
  wroteSpeed := none

/-- The machine right after reset (10_state R49, 70_reset_and_hazards R270). -/
def State.reset : State where
  cfg := defaultCfg
  rbMode := none
  rbBpw := none
  rbSpeed := none
  dreg := none
  txw := none
  rxw := none
  status := resetStatus
  exit := none
  wireLog := []
  cfgIn := defaultCfg
  vin := 0#64
  vref := Config.defaultVref
  waiting := none
  ctrl := resetCtrl
  dacWord := Config.dacAtReset
  host := none
  inbox := []
  eventCount := 0
  hostReads := []
  draws := []
  drawCount := 0

end Machine
end Sys2Proof
end

