-- ==== Sys2Proof/Machine/Float64.lean ====
section
/-!
DEFINITION. IEEE 754 binary64 as far as CONV needs it: reading a value from its bits, the product
and the quotient rounded to nearest with ties to even (00_scope R12), and truncation.
-/

namespace Sys2Proof
namespace Machine

/-- A binary64 value: not a number, an infinity, or (-1)^neg * mant * 2^exp. -/
inductive F64 where
  | nan
  | inf (neg : Bool)
  | fin (neg : Bool) (mant : Nat) (exp : Int)
  deriving DecidableEq, Repr

/-- Read a binary64 value from its bits: sign at 63, biased exponent at 62:52, fraction at 51:0. -/
def f64OfBits (b : F64Bits) : F64 :=
  let neg := b.getLsbD 63
  let ex := (b.extractLsb' 52 11).toNat
  let fr := (b.extractLsb' 0 52).toNat
  if ex = 2047 then (if fr = 0 then .inf neg else .nan)
  else if ex = 0 then .fin neg fr (-1074)
  else .fin neg (4503599627370496 + fr) ((ex : Int) - 1075)

/-- n * 2^k ≥ d, for a power of either sign. -/
def scaledGe (n d : Nat) (k : Int) : Bool := decide (d <<< (-k).toNat ≤ n <<< k.toNat)

/-- The exponent of the leading bit of n / d, for positive n and d. -/
def ratioLog (n d : Nat) : Int :=
  let k : Int := (n.log2 : Int) - (d.log2 : Int)
  if scaledGe n d (-k) then k else k - 1

/-- Round to nearest, ties to even, of num / den. -/
def nearestEven (num den : Nat) : Nat :=
  let q := num / den
  let r := num % den
  if den < 2 * r ∨ (2 * r = den ∧ q % 2 = 1) then q + 1 else q

/-- The binary64 value nearest to n / d, with the sign given: 53 significant bits, fewer below the
normal range, infinity beyond the largest finite value. -/
def roundRatio (neg : Bool) (n d : Nat) : F64 :=
  if n = 0 then .fin neg 0 (-1074)
  else
    let e : Int := max (-1074) (ratioLog n d - 52)
    let m := nearestEven (n <<< (-e).toNat) (d <<< e.toNat)
    let m' := if m = 9007199254740992 then 4503599627370496 else m
    let e' := if m = 9007199254740992 then e + 1 else e
    if 971 < e' then .inf neg else .fin neg m' e'

/-- Round m * 2^e / n. -/
def roundScaled (neg : Bool) (m n : Nat) (e : Int) : F64 :=
  roundRatio neg (m <<< e.toNat) (n <<< (-e).toNat)

/-- The binary64 product (00_scope R12). -/
def mul64 : F64 → F64 → F64
  | .nan, _ => .nan
  | _, .nan => .nan
  | .inf s, .inf t => .inf (s ^^ t)
  | .inf s, .fin t m _ => if m = 0 then .nan else .inf (s ^^ t)
  | .fin s m _, .inf t => if m = 0 then .nan else .inf (s ^^ t)
  | .fin s m e, .fin t n f => roundScaled (s ^^ t) (m * n) 1 (e + f)

/-- The binary64 quotient (00_scope R12). -/
def div64 : F64 → F64 → F64
  | .nan, _ => .nan
  | _, .nan => .nan
  | .inf _, .inf _ => .nan
  | .inf s, .fin t _ _ => .inf (s ^^ t)
  | .fin s _ _, .inf t => .fin (s ^^ t) 0 (-1074)
  | .fin s m e, .fin t n f =>
    if n = 0 then (if m = 0 then .nan else .inf (s ^^ t))
    else roundScaled (s ^^ t) m n (e - f)

/-- The integer part of the magnitude mant * 2^exp. -/
def truncMag (mant : Nat) (exp : Int) : Nat := (mant <<< exp.toNat) >>> (-exp).toNat

/-- The DREG value of a quotient: `trunc(q)` where -1 < q < 65536, none elsewhere (41_conversion
R131, R132). A negative q is above -1 exactly when its magnitude truncates to 0, and the result is
then 0; any other q is below 65536 exactly when it truncates below 65536. -/
def codeOf : F64 → Option Half
  | .nan => none
  | .inf _ => none
  | .fin true mant exp => if truncMag mant exp = 0 then some 0#16 else none
  | .fin false mant exp =>
    if truncMag mant exp < 65536 then some (BitVec.ofNat 16 (truncMag mant exp)) else none

/-- The binary64 number 1024.0. -/
def f64Of1024 : F64 := f64OfBits 0x4090000000000000#64

/-- CONV's quotient: the product with 1024 first, then the division by VREF (41_conversion R131,
R137). -/
def convQuotient (vin vref : F64Bits) : F64 :=
  div64 (mul64 (f64OfBits vin) f64Of1024) (f64OfBits vref)

/-- CONV's result: the data code, or none where CONV_RANGE is raised (41_conversion R131, R132). -/
def convCode (vin vref : F64Bits) : Option Half := codeOf (convQuotient vin vref)

end Machine
end Sys2Proof
end

