-- ==== Sys2Proof/Machine/Flags.lean ====
section
/-!
DEFINITION. The STATUS register: the codes of its fields, its 32-bit word, and what each event
writes to it (10_state R36 to R39, 60_exceptions R240, R250). The block has no arithmetic flags
(10_state R40).
-/

namespace Sys2Proof
namespace Machine

/-- The PHASE values of 10_state R36. -/
def Phase.code : Phase → BitVec 2
  | .idle => 0
  | .closed => 1
  | .opened => 2
  | .stopped => 3

/-- The values of MODE_ST, BPW_ST and SPD_ST (10_state R37). -/
def VerState.code : VerState → BitVec 2
  | .none => 0
  | .written => 1
  | .verified => 2

/-- The numeric error codes (60_exceptions R240). -/
def ErrCode.code : ErrCode → Byte
  | .none => 0
  | .cfgOpen => 1
  | .cfgWrMode => 2
  | .cfgRdMode => 3
  | .cfgModeMismatch => 4
  | .cfgWrBpw => 5
  | .cfgRdBpw => 6
  | .cfgBpwMismatch => 7
  | .cfgWrSpeed => 8
  | .cfgRdSpeed => 9
  | .cfgSpeedMismatch => 10
  | .xferShort => 11
  | .usage => 12
  | .convRange => 13
  | .illegalCommand => 14
  | .unwritten => 15
  | .sequence => 16
  | .unmodelledBpw => 17

/-- FAULTCLASS of an error: 1 from code 13 on (60_exceptions R250). -/
def ErrCode.faultClass (e : ErrCode) : Bool := decide (13#8 ≤ e.code)

/-- STATUS as the host reads it (10_state R37): reserved, ERR, reserved, FAULTCLASS, KILLED,
SPD_ST, BPW_ST, MODE_ST, PHASE from bit 31 down. -/
def Status.word (t : Status) : Word :=
  (0#8 ++ t.err.code ++ 0#6 ++ BitVec.ofBool t.faultClass ++ BitVec.ofBool t.killed
    ++ t.spdSt.code ++ t.bpwSt.code ++ t.modeSt.code ++ t.phase.code).setWidth 32

/-- A parameter has been written since the last OPEN (the condition of RDMODE, RDBPW and RDSPD,
70_reset_and_hazards R280). -/
def VerState.wasWritten (v : VerState) : Bool := decide (v = .written ∨ v = .verified)

/-- All three parameters verified since the last OPEN (10_state R38, 43_transfer R190). -/
def Status.allVerified (t : Status) : Bool :=
  decide (t.modeSt = .verified ∧ t.bpwSt = .verified ∧ t.spdSt = .verified)

/-- The ST field of a parameter (10_state R38). -/
def Status.st (t : Status) : Param → VerState
  | .mode => t.modeSt
  | .bpw => t.bpwSt
  | .speed => t.spdSt

/-- Write the ST field of a parameter. -/
def Status.setSt (t : Status) (p : Param) (v : VerState) : Status :=
  match p with
  | .mode => { t with modeSt := v }
  | .bpw => { t with bpwSt := v }
  | .speed => { t with spdSt := v }

/-- OPEN and CLOSE: a new phase and all three ST fields 0 (10_state R38). -/
def Status.enter (t : Status) (p : Phase) : Status :=
  { t with phase := p, modeSt := .none, bpwSt := .none, spdSt := .none }

/-- The STATUS part of the error entry (60_exceptions R250): the ST fields and KILLED stay. -/
def Status.fail (t : Status) (e : ErrCode) : Status :=
  { t with err := e, faultClass := e.faultClass, phase := .stopped }

/-- The STATUS part of the kill (60_exceptions R256). -/
def Status.kill (t : Status) : Status := { t with killed := true, phase := .stopped }

/-- The STATUS part of the normal end (45_host_sequences R232). -/
def Status.finish (t : Status) : Status := { t with phase := .stopped }

end Machine
end Sys2Proof
end

