-- ==== Sys2Proof/Machine/Operands.lean ====
section
/-!
DEFINITION. The values the commands compute from their operands: the packed Command Word, the ECHO
field, the mode flags, the transfer descriptor and its buffers, and the bits of one word on the
wire.
-/

namespace Sys2Proof
namespace Machine

/-- The Word Encoder, `encode(data, channel, vrefBuffered, gain2x)` (40_encoder R112). -/
def encWord (ch buf g2x : Bool) (data : Half) : Half :=
  let d := data &&& 0x03FF#16
  ((BitVec.ofBool ch).setWidth 16 <<< 15) ||| ((BitVec.ofBool buf).setWidth 16 <<< 14)
    ||| ((BitVec.ofBool (!g2x)).setWidth 16 <<< 13) ||| (1#16 <<< 12) ||| (d <<< 2)

/-- The D_n field of a word, `(w >> 2) & 0x3FF` as 10 bits (10_state R42). -/
def echoField (w : Half) : BitVec 10 := ((w >>> 2) &&& 0x3FF#16).setWidth 10

/-- The mode flag CPHA, bit 0 (10_state R27). -/
def cpha (mode : Byte) : Bool := mode.getLsbD 0

/-- The mode flag CPOL, bit 1. -/
def cpol (mode : Byte) : Bool := mode.getLsbD 1

/-- The mode flag CS_HIGH, bit 2. -/
def csHigh (mode : Byte) : Bool := mode.getLsbD 2

/-- The mode flag LSB_FIRST, bit 3. -/
def lsbFirst (mode : Byte) : Bool := mode.getLsbD 3

/-- The mode flag 3WIRE, bit 4. -/
def threeWire (mode : Byte) : Bool := mode.getLsbD 4

/-- The mode flag LOOP, bit 5. -/
def loopMode (mode : Byte) : Bool := mode.getLsbD 5

/-- The mode flag NO_CS, bit 6. -/
def noCs (mode : Byte) : Bool := mode.getLsbD 6

/-- The mode flag READY, bit 7. -/
def readyFlag (mode : Byte) : Bool := mode.getLsbD 7

/-- A nominal link (43_transfer R204). -/
def nominalLink (mode bpw : Byte) : Bool :=
  decide (bpw = 16#8) && !csHigh mode && !lsbFirst mode && !threeWire mode && !loopMode mode
    && !noCs mode && !readyFlag mode && (cpol mode == cpha mode)

/-- The value of a link parameter, zero-extended to the width of a request. -/
def cfgParam (c : LinkConfig) : Param → Word
  | .mode => c.mode.setWidth 32
  | .bpw => c.bpw.setWidth 32
  | .speed => c.speed

/-- The transfer descriptor for a word (43_transfer R190, R192). -/
def descOf (c : LinkConfig) (w : Half) : Desc where
  tx := w
  len := c.bpw.toNat / 8
  delayUs := c.delay
  speedHz := c.speed
  bitsPerWord := c.bpw

/-- A 16-bit word as the two bytes of a buffer in a byte order (20_memory R60, R61). -/
def bufBytes (e : Endian) (w : Half) : List Byte :=
  match e with
  | .little => [w.extractLsb' 0 8, w.extractLsb' 8 8]
  | .big => [w.extractLsb' 8 8, w.extractLsb' 0 8]

/-- The 16-bit word the controller takes a two-byte buffer as (20_memory R61); none for a buffer
of another length, to which the spec gives no meaning (43_transfer R193). -/
def bufWord (e : Endian) : List Byte → Option Half
  | [a, b] =>
    match e with
    | .little => some ((b ++ a).setWidth 16)
    | .big => some ((a ++ b).setWidth 16)
  | _ => none

/-- TXBUF of a transfer, in the host's byte order (20_memory R60, log 9). -/
def txBuf (d : Desc) : List Byte := bufBytes Config.hostEndian d.tx

/-- RXBUF as a successful answer fills it (20_memory R60, log 9). -/
def rxBuf (d : Draw) : List Byte := bufBytes Config.hostEndian d.miso

/-- The bit of the word that is shifted k-th, k = 0 to 15 (43_transfer R196). -/
def wirePos (lsb : Bool) (k : Nat) : Nat := if lsb then k else 15 - k

/-- The 16 bits of a word in time order (43_transfer R196). -/
def wireBits (lsb : Bool) (w : Half) : List Bool :=
  (List.range 16).map (fun k => w.getLsbD (wirePos lsb k))

/-- The word assembled from bits in time order (43_transfer R196): the k-th bit goes to bit 15 - k,
or to bit k when LSB_FIRST = 1. -/
def wireWord (lsb : Bool) (bits : List Bool) : Half :=
  (List.range 16).foldl
    (fun acc k => if bits.getD k false then acc ||| (1#16 <<< wirePos lsb k) else acc) 0#16

/-- One word on the SPI port (10_state R20, 43_transfer R196, R202). -/
structure SpiFrame where
  /-- MOSI in time order -/
  mosi : List Bool
  /-- MISO in time order -/
  miso : List Bool
  /-- the level of chip select during the word; none: chip select is not driven (NO_CS) -/
  csLevel : Option Bool
  /-- the idle level of the clock -/
  clockIdle : Bool
  /-- whether bits are sampled on the trailing edge of their clock -/
  sampleTrailing : Bool
  deriving DecidableEq, Repr

/-- The frame of a word under a mode (43_transfer R196, R202). -/
def spiFrame (mode : Byte) (tx rx : Half) : SpiFrame where
  mosi := wireBits (lsbFirst mode) tx
  miso := wireBits (lsbFirst mode) rx
  csLevel := if noCs mode then none else some (csHigh mode)
  clockIdle := cpol mode
  sampleTrailing := cpha mode

/-- What a WIRE_LOG entry shows of the SPI port: the frame of a completed exchange; nothing for a
SHORT or KILLED one, whose wire effect is not specified (43_transfer R199). -/
def WireEntry.frame (e : WireEntry) : Option SpiFrame :=
  match e.outcome, e.miso with
  | .ok, some rx => some (spiFrame e.mode e.word rx)
  | _, _ => none

/-- The word the DAC reads from MOSI: most significant bit first (43_transfer R205). -/
def dacReads (f : SpiFrame) : Half := wireWord false f.mosi

/-- The DAC's reading of a word in the CW16 layout (30_encoding R80, 43_transfer R205). -/
structure DacFields where
  ch   : Bool
  buf  : Bool
  gaN  : Bool
  act  : Bool
  data : BitVec 10
  deriving DecidableEq, Repr

/-- The fields of a word as the DAC reads them; bits 1:0 are don't-care (43_transfer R205). -/
def dacFields (w : Half) : DacFields where
  ch := w.getLsbD 15
  buf := w.getLsbD 14
  gaN := w.getLsbD 13
  act := w.getLsbD 12
  data := w.extractLsb' 2 10

end Machine
end Sys2Proof
end

