-- ==== Sys2Proof/Machine/Ops.lean ====
section
/-!
DEFINITION. The named operations over the state: draws, the phase check of a command, asking the
controller, the error entry, the kill, the ends of a run, reset, the wire log and the DAC, and the
read port.
-/

namespace Sys2Proof
namespace Machine

/-! ### Draws -/

/-- The next draw: the one the environment has ready, or the free value (00_scope R10, log 1). -/
def State.peek (s : State) (q : Query) : Draw :=
  match s.draws with
  | d :: _ => d
  | [] => Config.freeDraw s.drawCount q

/-- The state after a draw was taken. -/
def State.tick (s : State) : State := { s with draws := s.draws.tail, drawCount := s.drawCount + 1 }

/-! ### Events -/

/-- What arrives at the k-th step from now: what stands ready, or the free event (log 7). -/
def State.arrivalAt (s : State) (k : Nat) : Option Event :=
  (s.inbox[k]?).getD (Config.freeEvent (s.eventCount + k))

/-- What arrives at this step. -/
def State.arrival (s : State) : Option Event := s.arrivalAt 0

/-- The state after a step has looked at what arrives. -/
def State.advance (s : State) : State :=
  { s with inbox := s.inbox.tail, eventCount := s.eventCount + 1 }

/-! ### Errors and the ends of a run -/

/-- Give the handle back to the controller if the block holds it ("if PHASE = OPEN: release the
handle to CTRL", 60_exceptions R250, R256, 45_host_sequences R232). -/
def State.releaseIfOpen (s : State) : State :=
  if s.status.phase = .opened then { s with ctrl := { s.ctrl with held := false } } else s

/-- EXIT after an error: 1 for USAGE, ABORT_STATUS for every other (60_exceptions R250). -/
def exitOf (e : ErrCode) : Byte := if e = .usage then 1#8 else Config.abortStatus

/-- TAKING AN ERROR: the one error entry (60_exceptions R250); nothing is in flight after it
(log 7). There is no return from it (R254). -/
def State.raise (s : State) (e : ErrCode) : State :=
  { s.releaseIfOpen with status := s.status.fail e, exit := some (exitOf e), waiting := none }

/-- The normal end of a run, the host event `end` (45_host_sequences R232). -/
def State.endRun (s : State) : State :=
  { s.releaseIfOpen with status := s.status.finish, exit := some 0#8 }

/-! ### The wire log and the DAC -/

/-- The WIRE_LOG entry for a word under the present configuration (10_state R44). -/
def State.entry (s : State) (w : Half) (o : WireOutcome) (miso : Option Half) : WireEntry where
  word := w
  mode := s.cfg.mode
  bpw := s.cfg.bpw
  speed := s.cfg.speed
  delay := s.cfg.delay
  outcome := o
  miso := miso

/-- Append to WIRE_LOG (10_state R44). -/
def State.logWire (s : State) (e : WireEntry) : State := { s with wireLog := s.wireLog ++ [e] }

/-- The DAC reads a word: its latched data from now on (43_transfer R205, log 10). -/
def State.latch (s : State) (w : Half) : State := { s with dacWord := w }

/-- The DAC after it may have taken any word, or none: the cases of 43_transfer R199. -/
def State.dacFree (s : State) (took : Option Half) : State := s.latch (took.getD s.dacWord)

/-- The DAC after a completed exchange: on a nominal link it reads the word from MOSI (43_transfer
R205); on any other link what it received is not specified (R199). -/
def State.dacAfter (s : State) (w : Half) (a : Draw) : State :=
  if nominalLink s.cfg.mode s.cfg.bpw then
    s.latch (dacReads (spiFrame s.cfg.mode w a.miso))
  else s.dacFree a.dacTakes

/-! ### Running a command -/

/-- A command with its phase precondition: in STOPPED no command has any effect (60_exceptions
R255); a precondition that fails raises SEQUENCE before anything else is read (00_scope R13,
60_exceptions R243). -/
def State.command (s : State) (pre : Bool) (body : State → State) : State :=
  if s.status.phase = .stopped then s
  else if pre then body s
  else s.raise .sequence

/-- Ask the controller, and go on with its answer; while it does not answer, the command waits
(60_exceptions R257). DESIGN CHOICE: the command is tried again at each step and every try takes a
draw (log 1); a try without an answer leaves the controller's settings (log 2) and the DAC's data
(log 10) as they are: while an XFER waits the DAC holds what it held, unless a word reaches it
(log 11), though the spec says nothing of the bits that reach it meanwhile (43_transfer R199). -/
def State.ask (s : State) (r : CtrlReq) (k : Draw → State → State) : State :=
  if (s.peek (.ctrl r)).answered then k (s.peek (.ctrl r)) { s.tick with waiting := none }
  else { s.tick with waiting := some r }

/-- The handle is open, the condition of WR*, RD*, XFER and CLOSE (70_reset_and_hazards R280). -/
def State.isOpen (s : State) : Bool := decide (s.status.phase = .opened)

/-! ### The controller's settings -/

/-- The controller has accepted a write of a parameter (42_link_config R180). -/
def Ctrl.accept (c : Ctrl) (p : Param) (v : Word) : Ctrl :=
  match p with
  | .mode => { c with wroteMode := some (v.setWidth 8) }
  | .bpw => { c with wroteBpw := some (v.setWidth 8) }
  | .speed => { c with wroteSpeed := some v }

/-- The value last written successfully since the open, zero-extended (42_link_config R180). -/
def Ctrl.wrote (c : Ctrl) : Param → Option Word
  | .mode => c.wroteMode.map (fun v => v.setWidth 32)
  | .bpw => c.wroteBpw.map (fun v => v.setWidth 32)
  | .speed => c.wroteSpeed

/-- No write accepted yet, as after an open (42_link_config R180). -/
def Ctrl.forget (c : Ctrl) : Ctrl :=
  { c with wroteMode := none, wroteBpw := none, wroteSpeed := none }

/-- The settings are the draw's: any values (10_state R45). -/
def Ctrl.settle (c : Ctrl) (a : Draw) : Ctrl :=
  { c with mode := a.setMode, bpw := a.setBpw, speed := a.setSpeed }

/-- The controller's settings after it has answered an open or a write: the draw's, since the spec
ties no setting to an answer (10_state R45, 42_link_config R178, log 2). -/
def State.settle (s : State) (a : Draw) : State := { s with ctrl := s.ctrl.settle a }

/-- An open, write or read-back is cut off: the controller's state is unknown, a draw (60_exceptions
R256). -/
def State.cutCtrl (s : State) (r : CtrlReq) : State :=
  { s.tick with ctrl := s.ctrl.forget.settle (s.peek (.cutOff r)) }

/-- The error code of a failed write (60_exceptions R240). -/
def wrError : Param → ErrCode
  | .mode => .cfgWrMode
  | .bpw => .cfgWrBpw
  | .speed => .cfgWrSpeed

/-- The error code of a failed read-back. -/
def rdError : Param → ErrCode
  | .mode => .cfgRdMode
  | .bpw => .cfgRdBpw
  | .speed => .cfgRdSpeed

/-- The error code of a read-back that differs. -/
def mismatchError : Param → ErrCode
  | .mode => .cfgModeMismatch
  | .bpw => .cfgBpwMismatch
  | .speed => .cfgSpeedMismatch

/-- A read-back value at its parameter's width: 8, 8 or 32 bits (42_link_config R178). -/
def readValue (p : Param) (v : Word) : Word :=
  match p with
  | .mode => (v.setWidth 8).setWidth 32
  | .bpw => (v.setWidth 8).setWidth 32
  | .speed => v

/-- Write the read-back register of a parameter (10_state R32). -/
def State.setRb (s : State) (p : Param) (v : Word) : State :=
  match p with
  | .mode => { s with rbMode := some (v.setWidth 8) }
  | .bpw => { s with rbBpw := some (v.setWidth 8) }
  | .speed => { s with rbSpeed := some v }

/-- Write the ST field of a parameter (10_state R38). -/
def State.setSt (s : State) (p : Param) (v : VerState) : State :=
  { s with status := s.status.setSt p v }

/-- WRMODE, WRBPW and WRSPD once the controller has answered (42_link_config R156, R164, R170). -/
def State.afterWrite (p : Param) (a : Draw) (s : State) : State :=
  if a.ok then
    { s.setSt p .written with ctrl := (s.ctrl.settle a).accept p (cfgParam s.cfg p) }
  else (s.settle a).raise (wrError p)

/-- RDMODE, RDBPW and RDSPD once the controller has answered (42_link_config R160, R166, R172): a
failed read comes before a mismatch (60_exceptions R252) and leaves the register (90_conflicts C8);
a mismatch leaves the value that was read. -/
def State.afterRead (p : Param) (a : Draw) (s : State) : State :=
  if a.ok then
    if readValue p a.value = cfgParam s.cfg p then (s.setRb p a.value).setSt p .verified
    else (s.setRb p a.value).raise (mismatchError p)
  else s.raise (rdError p)

/-- A configuration write, for any parameter (42_link_config R156, R164, R170). -/
def State.writeParam (s : State) (p : Param) : State :=
  s.command s.isOpen (fun t => t.ask (.write p (cfgParam t.cfg p)) (State.afterWrite p))

/-- A read-back, for any parameter (42_link_config R160, R166, R172). -/
def State.readParam (s : State) (p : Param) : State :=
  s.command (s.isOpen && (s.status.st p).wasWritten) (fun t => t.ask (.read p) (State.afterRead p))

/-! ### Kill, usage error, reset -/

/-- What a kill does to the command that waits (60_exceptions R256, log 17): a transfer is logged as
KILLED and RXW holds no value, and what the DAC took is free (R199); an open, write or read-back
leaves the controller's state unknown. -/
def State.killWaiting (s : State) : State :=
  match s.waiting with
  | none => s
  | some (.xfer d) =>
    ({ s.tick with rxw := none, wireLog := s.wireLog ++ [s.entry d.tx .killed none] }).dacFree
      (s.peek (.cutOff (.xfer d))).dacTakes
  | some r => s.cutCtrl r

/-- The kill (60_exceptions R256); STOPPED is final, so it does nothing there (10_state R36,
R39). -/
def State.killed (s : State) : State :=
  if s.status.phase = .stopped then s
  else
    { s.killWaiting.releaseIfOpen with
      status := s.status.kill, exit := some Config.killStatus, waiting := none }

/-- An OPEN that waits is cut off; the controller's state is then unknown (log 7). -/
def State.cutOpen (s : State) : State :=
  match s.waiting with
  | some (.openDev path) => s.cutCtrl (.openDev path)
  | _ => s

/-- The host event `usage_stop`, accepted only in IDLE (45_host_sequences R229). An OPEN that waits
there is cut off (log 7). -/
def State.usageStopped (s : State) : State :=
  if s.status.phase = .idle then s.cutOpen.raise .usage else s

/-- Reset (70_reset_and_hazards R270): every register of 10_state R49 at its reset value, nothing
in flight, no open handle, the host at the start of its program; the controller's settings, the DAC,
the ports and VREF are not touched (log 13). A command that waited is cut off as a kill cuts it
off, so what the controller or the DAC made of it stays open. -/
def State.resetBlock (s : State) : State :=
  { s.killWaiting with
    cfg := defaultCfg, rbMode := none, rbBpw := none, rbSpeed := none
    dreg := none, txw := none, rxw := none
    status := resetStatus, exit := none, wireLog := []
    waiting := none
    ctrl := { s.killWaiting.ctrl with held := false }
    host := s.host.map (fun p => { p with hpc := 0 }) }

/-! ### Views and the read port -/

/-- ECHO (10_state R42). -/
def State.echo (s : State) : Option (BitVec 10) := s.rxw.map echoField

/-- DONE: the last command has completed and the next may be issued (10_state R20, log 5). -/
def State.done (s : State) : Bool :=
  decide (s.waiting = none) && decide (s.status.phase ≠ .stopped)

/-- A register that may hold no value, on the read port (10_state R50, log 19). -/
def rdOption {n : Nat} : Option (BitVec n) → RdData
  | some v => .word (v.setWidth 32)
  | none => .noValue

/-- The read port (10_state R50): a function of the state, so a read has no side effect and is
possible in every phase. DESIGN CHOICE: how a narrower register and how WIRE_LOG, a list, are shown on
the 32-bit port (log 19). -/
def State.readPort (s : State) : RegSel → RdData
  | .cfgPath => .text s.cfg.path
  | .cfgMode => .word (s.cfg.mode.setWidth 32)
  | .cfgBpw => .word (s.cfg.bpw.setWidth 32)
  | .cfgSpeed => .word s.cfg.speed
  | .cfgDelay => .word (s.cfg.delay.setWidth 32)
  | .rbMode => rdOption s.rbMode
  | .rbBpw => rdOption s.rbBpw
  | .rbSpeed => rdOption s.rbSpeed
  | .dreg => rdOption s.dreg
  | .txw => rdOption s.txw
  | .rxw => rdOption s.rxw
  | .echo => rdOption s.echo
  | .status => .word s.status.word
  | .exit => rdOption s.exit
  | .wireLog => .log s.wireLog

end Machine
end Sys2Proof
end

