-- ==== Sys2Proof/Machine/Convert.lean ====
section
/-!
DEFINITION. The conversion command CONV (41_conversion). It runs in every phase but STOPPED.
-/

namespace Sys2Proof
namespace Machine

/-- CONV's body: DREG <- the code of VIN, or CONV_RANGE with DREG unchanged (41_conversion R131,
R132). -/
def State.convert (s : State) : State :=
  match convCode s.vin s.vref with
  | none => s.raise .convRange
  | some c => { s with dreg := some c }

/-- CONV (41_conversion R131). -/
def execConv (s : State) : Host.Outcome State Fault Refusal :=
  .next (s.command true (fun t => t.convert))

end Machine
end Sys2Proof
end

