-- ==== Sys2Proof/WellFormed.lean ====
section
/-!
DEFINITION. What makes a piece of syntax well formed. The operands of an instruction are typed at
the width of their field, so what is left to check is the port an instruction belongs to and the
operands of an assembler line.
-/

namespace Sys2Proof

/-- Whether an instruction may arrive on a port: the 13 commands and the reserved operations are
HC32 words on CMD (30_encoding R84, R85), DACWR is a CW16 word at the DAC's serial input (R80). -/
def Instr.wfOn : Port → Instr → Bool
  | .cmd, .dacwr _ _ _ _ => false
  | .cmd, _ => true
  | .dac, .dacwr _ _ _ _ => true
  | .dac, _ => false

/-- The 13 operations of 30_encoding R85, as against a reserved operation or a DAC word. -/
def Instr.isCommand : Instr → Bool
  | .reservedOp0 _ => false
  | .reservedOpE _ => false
  | .reservedOpF _ => false
  | .dacwr _ _ _ _ => false
  | _ => true

/-- The eleven operations with no immediate (30_encoding R88). -/
def Instr.isPlain : Instr → Bool
  | .ldd _ => false
  | .enc _ _ _ => false
  | i => i.isCommand

/-- An assembler line is legal: LDD's number is 0 to 65535 ("a value outside … is an assembly
error, not a truncation"), and a line with no operand names one of the eleven operations of R88
(30_encoding R94). -/
def AsmLine.wf : AsmLine → Bool
  | .plain i => i.isPlain
  | .ldd n => decide (n < 65536)
  | .enc _ _ _ => true

end Sys2Proof
end

