-- ==== Sys2Proof/Decode.lean ====
section
/-!
DEFINITION. Decoding, total on every word of both formats (30_encoding R91), and the encoder.
-/

namespace Sys2Proof

/-- Why a word is no instruction: each of the three is named. -/
inductive DecodeError where
  /-- RSV (bits 27:16) is not 0 (30_encoding R89) -/
  | reservedBits
  /-- an IMM bit that must be 0 is not (R87, R88, R89) -/
  | immediateBits
  /-- a 16-bit word without bit 12 = 1 and bits 1:0 = 0 (R80, R98) -/
  | notCommandWord
  deriving DecidableEq, Repr

/-- OP, bits 31:28 (30_encoding R84). -/
def opField (w : Word) : BitVec 4 := w.extractLsb' 28 4

/-- RSV, bits 27:16 (R84). -/
def rsvField (w : Word) : BitVec 12 := w.extractLsb' 16 12

/-- IMM, bits 15:0 (R84). -/
def immField (w : Word) : Half := w.extractLsb' 0 16

/-- The bits below OP, as a reserved operation carries them. -/
def lowField (w : Word) : BitVec 28 := w.extractLsb' 0 28

/-- The eleven operations with no immediate, by OP (R85, R88); 0xD is the last left. -/
def plainOp (op : BitVec 4) : Instr :=
  if op = 0x1#4 then .ldcfg
  else if op = 0x2#4 then .openDev
  else if op = 0x3#4 then .wrmode
  else if op = 0x4#4 then .rdmode
  else if op = 0x5#4 then .wrbpw
  else if op = 0x6#4 then .rdbpw
  else if op = 0x7#4 then .wrspd
  else if op = 0x8#4 then .rdspd
  else if op = 0x9#4 then .conv
  else if op = 0xC#4 then .xfer
  else .close

/-- Decode a host command (30_encoding R91). R91 answers ILLEGAL for a reserved operation and for
nonzero reserved bits alike; here a reserved operation is a row of its own and the reserved bits of
the other operations a named error. Both raise ILLEGAL_COMMAND (60_exceptions R242, log 12). -/
def decodeHc32 (w : Word) : Except DecodeError Instr :=
  if opField w = 0x0#4 then .ok (.reservedOp0 (lowField w))
  else if opField w = 0xE#4 then .ok (.reservedOpE (lowField w))
  else if opField w = 0xF#4 then .ok (.reservedOpF (lowField w))
  else if rsvField w ≠ 0#12 then .error .reservedBits
  else if opField w = 0xA#4 then .ok (.ldd (immField w))
  else if opField w = 0xB#4 then
    if (immField w).extractLsb' 3 13 ≠ 0#13 then .error .immediateBits
    else .ok (.enc ((immField w).getLsbD 2) ((immField w).getLsbD 1) ((immField w).getLsbD 0))
  else if immField w ≠ 0#16 then .error .immediateBits
  else .ok (plainOp (opField w))

/-- Decode a DAC Command Word by its fields (30_encoding R80). -/
def decodeCw16 (w : Half) : Except DecodeError Instr :=
  if w.getLsbD 12 = true ∧ w.extractLsb' 0 2 = 0#2 then
    .ok (.dacwr (w.getLsbD 15) (w.getLsbD 14) (w.getLsbD 13) (w.extractLsb' 2 10))
  else .error .notCommandWord

/-- Decode a word of either format. -/
def decode : CodeWord → Except DecodeError Instr
  | .hc32 w => decodeHc32 w
  | .cw16 w => decodeCw16 w

/-- An HC32 word from its three fields (30_encoding R84). -/
def hc32Of (op : BitVec 4) (rsv : BitVec 12) (imm : Half) : Word := (op ++ rsv ++ imm).setWidth 32

/-- An ENC immediate: channel at bit 2, vrefBuffered at bit 1, gain2x at bit 0 (30_encoding R87). -/
def encImm (ch buf g2x : Bool) : Half :=
  (0#13 ++ BitVec.ofBool ch ++ BitVec.ofBool buf ++ BitVec.ofBool g2x).setWidth 16

/-- A CW16 word from its fields, most significant first: CH, BUF, GA_N, ACT = 1, D, 00 (R80). -/
def cw16Of (ch buf gaN : Bool) (data : BitVec 10) : Half :=
  (BitVec.ofBool ch ++ BitVec.ofBool buf ++ BitVec.ofBool gaN ++ 1#1 ++ data ++ 0#2).setWidth 16

/-- A reserved operation's word: OP and the 28 bits below it (R90). -/
def reservedOf (op : BitVec 4) (low : BitVec 28) : Word := (op ++ low).setWidth 32

/-- The word of an instruction, from the encodings of 30_encoding R80 and R85 to R90. -/
def encode : Instr → CodeWord
  | .ldcfg => .hc32 (hc32Of 0x1#4 0#12 0#16)
  | .openDev => .hc32 (hc32Of 0x2#4 0#12 0#16)
  | .wrmode => .hc32 (hc32Of 0x3#4 0#12 0#16)
  | .rdmode => .hc32 (hc32Of 0x4#4 0#12 0#16)
  | .wrbpw => .hc32 (hc32Of 0x5#4 0#12 0#16)
  | .rdbpw => .hc32 (hc32Of 0x6#4 0#12 0#16)
  | .wrspd => .hc32 (hc32Of 0x7#4 0#12 0#16)
  | .rdspd => .hc32 (hc32Of 0x8#4 0#12 0#16)
  | .conv => .hc32 (hc32Of 0x9#4 0#12 0#16)
  | .ldd imm => .hc32 (hc32Of 0xA#4 0#12 imm)
  | .enc ch buf g2x => .hc32 (hc32Of 0xB#4 0#12 (encImm ch buf g2x))
  | .xfer => .hc32 (hc32Of 0xC#4 0#12 0#16)
  | .close => .hc32 (hc32Of 0xD#4 0#12 0#16)
  | .reservedOp0 low => .hc32 (reservedOf 0x0#4 low)
  | .reservedOpE low => .hc32 (reservedOf 0xE#4 low)
  | .reservedOpF low => .hc32 (reservedOf 0xF#4 low)
  | .dacwr ch buf gaN data => .cw16 (cw16Of ch buf gaN data)

/-- The instruction the decoder reads from a table row's word: HC32 rows have 32 bits, the CW16 row
has 16; a word that does not fit its width, or another width, is no instruction. -/
def decodeTableWord (nbits w : Nat) : Option Instr :=
  if nbits = 32 ∧ w < 4294967296 then (decodeHc32 (BitVec.ofNat 32 w)).toOption
  else if nbits = 16 ∧ w < 65536 then (decodeCw16 (BitVec.ofNat 16 w)).toOption
  else none

end Sys2Proof
end

