-- ==== Sys2Proof/Machine/Dac.lean ====
section
/-!
DEFINITION. The DAC Command Word as the DAC's own instruction (30_encoding R80, 43_transfer R205).
-/

namespace Sys2Proof
namespace Machine

/-- DACWR: the DAC is presented the word with these fields and reads it (43_transfer R205), by
the same operation as at the end of an XFER. It is the DAC's step, so the block's registers have no
part in it; a step takes it only within an XFER (00_scope R16, `State.takeEvent`). The analog output
is not modelled ("a model must not assume an analog output value or an update time"). -/
def execDacwr (ch buf gaN : Bool) (data : BitVec 10) (s : State) :
    Host.Outcome State Fault Refusal :=
  .next (s.latch (cw16Of ch buf gaN data))

end Machine
end Sys2Proof
end

