-- ==== Sys2Proof/Machine/Encoder.lean ====
section
/-!
DEFINITION. The Word Encoder commands LDD and ENC (40_encoder). Both run in every phase but STOPPED.
-/

namespace Sys2Proof
namespace Machine

/-- LDD: DREG <- IMM, unmasked (40_encoder R110). -/
def execLdd (imm : Half) (s : State) : Host.Outcome State Fault Refusal :=
  .next (s.command true (fun t => { t with dreg := some imm }))

/-- ENC's body: TXW <- the packed word, or UNWRITTEN when DREG holds no value (40_encoder R112,
60_exceptions R241). -/
def State.encode (s : State) (ch buf g2x : Bool) : State :=
  match s.dreg with
  | none => s.raise .unwritten
  | some d => { s with txw := some (encWord ch buf g2x d) }

/-- ENC (40_encoder R112). -/
def execEnc (ch buf g2x : Bool) (s : State) : Host.Outcome State Fault Refusal :=
  .next (s.command true (fun t => t.encode ch buf g2x))

end Machine
end Sys2Proof
end

