-- ==== Sys2Proof/Machine/Link.lean ====
section
/-!
DEFINITION. The link configuration commands (42_link_config): LDCFG, OPEN, the three writes, the
three read-backs, CLOSE. The writes and read-backs are one shared operation over the parameter.
-/

namespace Sys2Proof
namespace Machine

/-- LDCFG: latch CFG_IN, in IDLE only (42_link_config R150). -/
def execLdcfg (s : State) : Host.Outcome State Fault Refusal :=
  .next (s.command (decide (s.status.phase = .idle)) (fun t => { t with cfg := t.cfgIn }))

/-- OPEN once the controller has answered (42_link_config R152): the controller holds the handle,
its settings are a draw again (10_state R45, 42_link_config R180). -/
def State.afterOpen (a : Draw) (s : State) : State :=
  if a.ok then
    { s with
      status := s.status.enter .opened
      ctrl := { s.ctrl.forget.settle a with held := true } }
  else (s.settle a).raise .cfgOpen

/-- OPEN, in IDLE or CLOSED (42_link_config R152). -/
def execOpen (s : State) : Host.Outcome State Fault Refusal :=
  .next (s.command (decide (s.status.phase = .idle ∨ s.status.phase = .closed))
    (fun t => t.ask (.openDev t.cfg.path) State.afterOpen))

/-- WRMODE (42_link_config R156): the whole mode in one write (90_conflicts C9). -/
def execWrmode (s : State) : Host.Outcome State Fault Refusal := .next (s.writeParam .mode)

/-- RDMODE (42_link_config R160). -/
def execRdmode (s : State) : Host.Outcome State Fault Refusal := .next (s.readParam .mode)

/-- WRBPW (42_link_config R164). -/
def execWrbpw (s : State) : Host.Outcome State Fault Refusal := .next (s.writeParam .bpw)

/-- RDBPW (42_link_config R166). -/
def execRdbpw (s : State) : Host.Outcome State Fault Refusal := .next (s.readParam .bpw)

/-- WRSPD (42_link_config R170). -/
def execWrspd (s : State) : Host.Outcome State Fault Refusal := .next (s.writeParam .speed)

/-- RDSPD (42_link_config R172): the comparison is exact. -/
def execRdspd (s : State) : Host.Outcome State Fault Refusal := .next (s.readParam .speed)

/-- CLOSE (42_link_config R176): it always succeeds. -/
def execClose (s : State) : Host.Outcome State Fault Refusal :=
  .next (s.command s.isOpen (fun t =>
    { t with status := t.status.enter .closed, ctrl := { t.ctrl with held := false } }))

end Machine
end Sys2Proof
end

