-- ==== Sys2Proof/Machine/Reserved.lean ====
section
/-!
DEFINITION. Words that are no command: the reserved operations and nonzero reserved bits
(30_encoding R89, R90). They raise ILLEGAL_COMMAND before any other check (60_exceptions R242); in
STOPPED nothing is executed (R255).
-/

namespace Sys2Proof
namespace Machine

/-- The effect of an illegal command word (60_exceptions R242). -/
def State.illegal (s : State) : State := s.command true (fun t => t.raise .illegalCommand)

/-- RESERVED_OP0 (30_encoding R90); the word's other bits do not matter. -/
def execReservedOp0 (_low : BitVec 28) (s : State) : Host.Outcome State Fault Refusal :=
  .next s.illegal

/-- RESERVED_OPE (30_encoding R90). -/
def execReservedOpE (_low : BitVec 28) (s : State) : Host.Outcome State Fault Refusal :=
  .next s.illegal

/-- RESERVED_OPF (30_encoding R90). -/
def execReservedOpF (_low : BitVec 28) (s : State) : Host.Outcome State Fault Refusal :=
  .next s.illegal

end Machine
end Sys2Proof
end

