-- ==== Sys2Proof/Machine/Transfer.lean ====
section
/-!
DEFINITION. The transfer command XFER (43_transfer).
-/

namespace Sys2Proof
namespace Machine

/-- A Transfer Error: a SHORT entry, RXW without a value, XFER_SHORT (43_transfer R190, R194). What
the DAC took is free (R199). -/
def State.transferShort (s : State) (w : Half) (a : Draw) : State :=
  (({ s.logWire (s.entry w .short none) with rxw := none }).dacFree a.dacTakes).raise .xferShort

/-- A successful exchange: RXW <- miso and an OK entry (43_transfer R190, R195). -/
def State.transferOk (s : State) (w : Half) (a : Draw) : State :=
  ({ s.logWire (s.entry w .ok (some a.miso)) with rxw := some a.miso }).dacAfter w a

/-- XFER once the controller has answered: a count below the length is a Transfer Error, any other
count a success (43_transfer R190, R194). -/
def State.afterXfer (w : Half) (a : Draw) (s : State) : State :=
  if a.count < ((descOf s.cfg w).len : Int) then s.transferShort w a else s.transferOk w a

/-- XFER's body, its errors in the order of 60_exceptions R252 (43_transfer R190, R193). -/
def State.transfer (s : State) : State :=
  match s.txw with
  | none => s.raise .unwritten
  | some w =>
    if s.cfg.bpw ≠ 16#8 then s.raise .unmodelledBpw
    else s.ask (.xfer (descOf s.cfg w)) (State.afterXfer w)

/-- XFER, with the handle open and all three parameters verified (43_transfer R190). -/
def execXfer (s : State) : Host.Outcome State Fault Refusal :=
  .next (s.command (s.isOpen && s.status.allVerified) State.transfer)

end Machine
end Sys2Proof
end

