-- ==== Sys2Proof/Machine/Dispatch.lean ====
section
/-!
DEFINITION. exec: one arm per instruction, each one call of that instruction's meaning.
-/

namespace Sys2Proof
namespace Machine

-- The arms stand in the order of spec/opcode_table.json.
def exec (i : Instr) (s : State) : Host.Outcome State Fault Refusal :=
  match i with
  | .ldcfg => Sys2Proof.Machine.execLdcfg s
  | .openDev => Sys2Proof.Machine.execOpen s
  | .wrmode => Sys2Proof.Machine.execWrmode s
  | .rdmode => Sys2Proof.Machine.execRdmode s
  | .wrbpw => Sys2Proof.Machine.execWrbpw s
  | .rdbpw => Sys2Proof.Machine.execRdbpw s
  | .wrspd => Sys2Proof.Machine.execWrspd s
  | .rdspd => Sys2Proof.Machine.execRdspd s
  | .conv => Sys2Proof.Machine.execConv s
  | .ldd imm => Sys2Proof.Machine.execLdd imm s
  | .enc ch buf g2x => Sys2Proof.Machine.execEnc ch buf g2x s
  | .xfer => Sys2Proof.Machine.execXfer s
  | .close => Sys2Proof.Machine.execClose s
  | .reservedOp0 low => Sys2Proof.Machine.execReservedOp0 low s
  | .reservedOpE low => Sys2Proof.Machine.execReservedOpE low s
  | .reservedOpF low => Sys2Proof.Machine.execReservedOpF low s
  | .dacwr ch buf gaN data => Sys2Proof.Machine.execDacwr ch buf gaN data s

end Machine
end Sys2Proof
end

