-- ==== Sys2Proof/Machine/Host.lean ====
section
/-!
DEFINITION. The host (45_host_sequences): its program and counter, the events it raises, what the
next step of the machine is, the pseudo-operations, and the command-line options.
-/

namespace Sys2Proof
namespace Machine

/-! ### The next step -/

/-- What the next step is: a command to run (with hpc to advance after it), an instruction of the
DAC, or a step that is complete already. -/
inductive Move where
  | command (i : Instr) (s : State)
  | device (i : Instr) (s : State)
  | settle (s : State)
  deriving DecidableEq, Repr

/-- The command that makes a request of the controller. -/
def reqInstr : CtrlReq → Instr
  | .openDev _ => .openDev
  | .write .mode _ => .wrmode
  | .write .bpw _ => .wrbpw
  | .write .speed _ => .wrspd
  | .read .mode => .rdmode
  | .read .bpw => .rdbpw
  | .read .speed => .rdspd
  | .xfer _ => .xfer

/-- The ports as the host presents them with a command (45_host_sequences R231); a prompt takes a
draw (R223). -/
def State.present (s : State) (c : HostCmd) : State :=
  let t := { s with cfgIn := c.cfgIn.getD s.cfgIn }
  match c.vin with
  | .hold => t
  | .value v => { t with vin := v }
  | .prompt => { t.tick with vin := (t.peek .prompt).volts }

/-- The host issues a command; a word that decodes as illegal raises ILLEGAL_COMMAND
(30_encoding R91). -/
def State.issue (s : State) (c : HostCmd) : Move :=
  match decodeHc32 c.word with
  | .ok i => .command i (s.present c)
  | .error _ => .settle (s.present c).illegal

/-- The host's move: the command at hpc; `end` once hpc has passed the last command (R231, R232);
nothing while no program is presented (70_reset_and_hazards R271). -/
def State.fetch (s : State) : Move :=
  match s.host with
  | none => .settle s
  | some p =>
    match p.cmds[p.hpc]? with
    | some c => s.issue c
    | none => .settle s.endRun

/-- An XFER waits for its answer: the only time between two answers at which the DAC may step
(00_scope R16). -/
def State.transferWaits (s : State) : Bool :=
  match s.waiting with
  | some (.xfer _) => decide (s.status.phase = .opened)
  | _ => false

/-- An event is taken (60_exceptions R256, 45_host_sequences R229, 70_reset_and_hazards R270). A word
at the DAC's serial input is taken while an XFER waits: it is the DAC's instruction if it is a CW16
word, and is read whole if it is not (43_transfer R199, R205, log 11). -/
def State.takeEvent (s : State) : Event → Move
  | .kill => .settle s.killed
  | .usageStop => .settle s.usageStopped
  | .reset => .settle s.resetBlock
  | .dacWord w =>
    if s.transferWaits then
      match decodeCw16 w with
      | .ok i => .device i s
      | .error _ => .settle (s.latch w)
    else .settle s

/-- What happens when nothing arrives: nothing in STOPPED (60_exceptions R255, log 16); the command
that waits, tried again (R257, log 1); the host's next command. -/
def State.turn (s : State) : Move :=
  if s.status.phase = .stopped then .settle s
  else
    match s.waiting with
    | some r => .command (reqInstr r) s
    | none => s.fetch

/-- What the machine does next: the event that arrives at this step, if one does (log 7), else its
own turn. -/
def State.select (s : State) : Move :=
  match s.arrival with
  | some ev => s.advance.takeEvent ev
  | none => s.advance.turn

/-- hpc after a command: one further, or back to the loop's target after the last command
(45_host_sequences R223, R231). -/
def HostProgram.next (p : HostProgram) : HostProgram :=
  match p.loopTo with
  | some k => { p with hpc := if p.cmds.length ≤ p.hpc + 1 then k else p.hpc + 1 }
  | none => { p with hpc := p.hpc + 1 }

/-- The registers the host reads after the command at hpc (45_host_sequences R222). -/
def HostProgram.readsNow (p : HostProgram) : List RegSel :=
  match p.cmds[p.hpc]? with
  | some c => c.reads
  | none => []

/-- Host reads through the read port, in order; no side effect on any register (10_state R50). -/
def State.hostRead (s : State) (l : List RegSel) : State :=
  { s with hostReads := s.hostReads ++ l.map (fun r => (r, s.readPort r)) }

/-- After a command that has completed without stopping the block: the host reads what its program
reads there (R222, log 18), and hpc advances (R231). -/
def State.afterCommand (s : State) : State :=
  if s.waiting = none ∧ s.status.phase ≠ .stopped then
    match s.host with
    | some p => { s.hostRead p.readsNow with host := some p.next }
    | none => s
  else s

/-- A state in which the XFER of a word waits on a nominal link, and the word is what arrives at the
DAC's serial input at the next step (log 11). -/
def State.presentToDac (s : State) (w : Half) : State :=
  let c : LinkConfig := { s.cfg with mode := 0x00#8, bpw := 16#8 }
  { s with
    cfg := c
    txw := some w
    status :=
      { s.status with
        phase := .opened, modeSt := .verified, bpwSt := .verified, spdSt := .verified }
    ctrl := { s.ctrl with held := true }
    waiting := some (.xfer (descOf c w))
    inbox := some (.dacWord w) :: s.inbox }

/-- Place a table row's word where the next step takes it from: an HC32 word as the host's program,
a CW16 word at the DAC's serial input within an XFER (log 6, log 11). -/
def State.placeWord (s : State) (nbits w : Nat) : State :=
  if nbits = 16 then s.presentToDac (BitVec.ofNat 16 w)
  else
    { s with
      inbox := none :: s.inbox
      waiting := none
      host := some
        { cmds := [{ word := BitVec.ofNat 32 w, cfgIn := none, vin := .hold }]
          hpc := 0
          loopTo := none } }

/-! ### Pseudo-operations (30_encoding R95) -/

/-- The HC32 word of a command. -/
def commandWord (i : Instr) : Word :=
  match encode i with
  | .hc32 w => w
  | .cw16 w => w.setWidth 32

/-- A command that leaves the ports as they are. -/
def hostCmd (i : Instr) : HostCmd where
  word := commandWord i
  cfgIn := none
  vin := .hold

/-- LDCFG with the record it is to latch. -/
def ldcfgCmd (c : LinkConfig) : HostCmd := { hostCmd .ldcfg with cfgIn := some c }

/-- CONFIGURE (45_host_sequences R220). -/
def configureSeq : List HostCmd :=
  [hostCmd .openDev, hostCmd .wrmode, hostCmd .rdmode, hostCmd .wrbpw, hostCmd .rdbpw,
    hostCmd .wrspd, hostCmd .rdspd]

/-- SEND v, ch, buf, g2x (R221). -/
def sendSeq (v : VinSource) (ch buf g2x : Bool) : List HostCmd :=
  [{ hostCmd .conv with vin := v }, hostCmd (.enc ch buf g2x), hostCmd .xfer]

/-- The registers of the link-parameter report (R222, 10_state R50). -/
def linkReportRegs : List RegSel := [.cfgMode, .cfgBpw, .cfgSpeed, .cfgDelay]

/-- The register of the echo report (R222, 10_state R50). -/
def echoReportRegs : List RegSel := [.echo]

/-- A sequence with a host read after its last command. -/
def thenRead : List HostCmd → List RegSel → List HostCmd
  | [], _ => []
  | [c], l => [{ c with reads := l }]
  | c :: cs, l => c :: thenRead cs l

/-- SESSION_ITER v, ch, buf, g2x (R222): CONFIGURE, the link-parameter report, SEND, the echo report,
CLOSE. -/
def sessionIter (v : VinSource) (ch buf g2x : Bool) : List HostCmd :=
  thenRead configureSeq linkReportRegs ++ thenRead (sendSeq v ch buf g2x) echoReportRegs
    ++ [hostCmd .close]

/-- SESSION: LDCFG once, then the iteration for ever, a voltage from the prompt each time (R223). -/
def HostProgram.session (c : LinkConfig) (ch buf g2x : Bool) : HostProgram where
  cmds := ldcfgCmd c :: sessionIter .prompt ch buf g2x
  hpc := 0
  loopTo := some 1

/-- ONESHOT: LDCFG and one iteration (R224). -/
def HostProgram.oneshot (c : LinkConfig) (v : VinSource) (ch buf g2x : Bool) : HostProgram where
  cmds := ldcfgCmd c :: sessionIter v ch buf g2x
  hpc := 0
  loopTo := none

/-- The program of a VARIANT (00_scope R7): SESSION takes its voltages from the prompt, ONESHOT the
one it is given. -/
def HostProgram.ofVariant (variant : Variant) (c : LinkConfig) (v : VinSource)
    (ch buf g2x : Bool) : HostProgram :=
  match variant with
  | .session => HostProgram.session c ch buf g2x
  | .oneshot => HostProgram.oneshot c v ch buf g2x

/-! ### Command-line options (45_host_sequences R228, R229) -/

/-- The options, with their parsed arguments; `unknown` is any option that is not one of R228's. -/
inductive CliOption where
  | device (path : String)
  | speed (hz : Word)
  | delay (usec : Half)
  | bpw (bits : Byte)
  | loop
  | cpha
  | cpol
  | lsb
  | csHigh
  | threeWire
  | noCs
  | ready
  | unknown
  deriving DecidableEq, Repr

/-- Set a mode flag: idempotent. -/
def setModeFlag (c : LinkConfig) (mask : Byte) : LinkConfig := { c with mode := c.mode ||| mask }

/-- The effect of one option on CFG_IN (R228); an unknown option has none, it is a usage error
(R229). -/
def applyOption (c : LinkConfig) : CliOption → Option LinkConfig
  | .device p => some { c with path := p }
  | .speed v => some { c with speed := v }
  | .delay v => some { c with delay := v }
  | .bpw v => some { c with bpw := v }
  | .loop => some (setModeFlag c 0x20#8)
  | .cpha => some (setModeFlag c 0x01#8)
  | .cpol => some (setModeFlag c 0x02#8)
  | .lsb => some (setModeFlag c 0x08#8)
  | .csHigh => some (setModeFlag c 0x04#8)
  | .threeWire => some (setModeFlag c 0x10#8)
  | .noCs => some (setModeFlag c 0x40#8)
  | .ready => some (setModeFlag c 0x80#8)
  | .unknown => none

/-- CFG_IN from a starting record and the options in order: the last value of a repeated option
wins (R228). -/
def applyOptions (c : LinkConfig) : List CliOption → Option LinkConfig
  | [] => some c
  | o :: os =>
    match applyOption c o with
    | some c' => applyOptions c' os
    | none => none

/-- The host starts: it parses the options from the reset defaults; an unknown option raises
`usage_stop` before LDCFG, else the host presents the program of its VARIANT, by default SESSION,
built for the configuration (R228, R229, 00_scope R7). ONESHOT's voltage comes from the prompt unless
one is given. -/
def State.startHost (s : State) (opts : List CliOption) (ch buf g2x : Bool)
    (variant : Variant := Config.defaultVariant) (v : VinSource := .prompt) : State :=
  match applyOptions defaultCfg opts with
  | some c => { s with host := some (HostProgram.ofVariant variant c v ch buf g2x) }
  | none => { s with inbox := some .usageStop :: s.inbox }

end Machine
end Sys2Proof
end

