-- ==== Sys2Proof/Machine/Step.lean ====
section
/-!
DEFINITION. One step of the machine, and a table row's word placed where the next step takes it.
-/

namespace Sys2Proof
namespace Machine

/-- What happens after a command: hpc advances (45_host_sequences R231). -/
def finishCommand : Host.Outcome State Fault Refusal → Host.Outcome State Fault Refusal
  | .next s => .next s.afterCommand
  | .fault r => .fault r
  | .refused r => .refused r

/-- One step: what `State.select` chooses is run (00_scope R16, 20_memory R66). -/
def step (s : State) : Host.Outcome State Fault Refusal :=
  match s.select with
  | .command i t => finishCommand (exec i t)
  | .device i t => exec i t
  | .settle t => .next t

/-- The state with a table row's word placed for the next step (log 6, log 11). -/
def State.withFetchWord (s : State) (nbits w : Nat) : State := s.placeWord nbits w

end Machine
end Sys2Proof
end

