-- ==== Sys2Proof/Safety.lean ====
section
/-!
DEFINITION. The terms claims are stated in: the invariants of the block, the registers a rule says
are unchanged, and the named premises a claim may take (00_scope R7).
-/

namespace Sys2Proof
namespace Machine

/-! ### Invariants -/

/-- A word the block can send: bit 12 is 1 and bits 1:0 are 0 (30_encoding R98). -/
def IsCw16 (w : Half) : Prop := w.getLsbD 12 = true ∧ w.extractLsb' 0 2 = 0#2

/-- The handle is open exactly when PHASE = OPEN (10_state R36). -/
def HandleInv (s : State) : Prop := s.ctrl.held = true ↔ s.status.phase = .opened

/-- TXW, every WIRE_LOG word and the word in flight are Command Words (10_state R34, 30_encoding
R98). -/
def WordInv (s : State) : Prop :=
  (∀ w, s.txw = some w → IsCw16 w) ∧ (∀ e ∈ s.wireLog, IsCw16 e.word) ∧
    (∀ d, s.waiting = some (.xfer d) → IsCw16 d.tx)

/-- What STOPPED and the error fields have to do with each other (10_state R36, R37, R39, R51,
60_exceptions R240): EXIT has a value exactly in STOPPED, ERR and KILLED are set only there and not
together, FAULTCLASS is the class of ERR. -/
def StopInv (s : State) : Prop :=
  (s.exit.isSome = true ↔ s.status.phase = .stopped) ∧
    (s.status.err ≠ .none → s.status.phase = .stopped ∧ s.status.killed = false) ∧
    (s.status.killed = true → s.status.phase = .stopped) ∧
    s.status.faultClass = s.status.err.faultClass

/-- What one ST field means while the handle is open (10_state R38): the controller has accepted a
write of the configured value since the open, and, for 2, has read it back equal. -/
def StMeans (st : VerState) (wrote rb : Option Word) (v : Word) : Prop :=
  (st.wasWritten = true → wrote = some v) ∧ (st = .verified → rb = some v)

/-- The read-back register of a parameter, zero-extended (10_state R32). -/
def State.rb (s : State) : Param → Option Word
  | .mode => s.rbMode.map (fun v => v.setWidth 32)
  | .bpw => s.rbBpw.map (fun v => v.setWidth 32)
  | .speed => s.rbSpeed

/-- What the verification state stands for (10_state R38, 42_link_config R184): the meaning of each
field while the handle is open; all three are 0 before the first open and between opens. -/
def VerifyInv (s : State) : Prop :=
  (s.status.phase = .opened →
    ∀ p, StMeans (s.status.st p) (s.ctrl.wrote p) (s.rb p) (cfgParam s.cfg p)) ∧
    (s.status.phase = .idle ∨ s.status.phase = .closed → ∀ p, s.status.st p = .none)

/-- A command that waits is one whose phase precondition holds (70_reset_and_hazards R280), and its
request is made of the registers as they stand. -/
def ReqOk (s : State) : CtrlReq → Prop
  | .openDev path =>
    (s.status.phase = .idle ∨ s.status.phase = .closed) ∧ path = s.cfg.path
  | .write p v => s.status.phase = .opened ∧ v = cfgParam s.cfg p
  | .read p => s.status.phase = .opened ∧ (s.status.st p).wasWritten = true
  | .xfer d =>
    s.status.phase = .opened ∧ s.status.allVerified = true ∧ s.cfg.bpw = 16#8 ∧
      s.txw = some d.tx ∧ d = descOf s.cfg d.tx

/-- The command that waits, if one does, may wait (20_memory R66). -/
def WaitInv (s : State) : Prop := ∀ r, s.waiting = some r → ReqOk s r

/-- The precondition table of 70_reset_and_hazards R280: when a command runs rather than raise
SEQUENCE. -/
def MayRun (s : State) : Instr → Prop
  | .ldcfg => s.status.phase = .idle
  | .openDev => s.status.phase = .idle ∨ s.status.phase = .closed
  | .wrmode => s.status.phase = .opened
  | .rdmode => s.status.phase = .opened ∧
      (s.status.modeSt = .written ∨ s.status.modeSt = .verified)
  | .wrbpw => s.status.phase = .opened
  | .rdbpw => s.status.phase = .opened ∧
      (s.status.bpwSt = .written ∨ s.status.bpwSt = .verified)
  | .wrspd => s.status.phase = .opened
  | .rdspd => s.status.phase = .opened ∧
      (s.status.spdSt = .written ∨ s.status.spdSt = .verified)
  | .xfer => s.status.phase = .opened ∧ s.status.modeSt = .verified ∧
      s.status.bpwSt = .verified ∧ s.status.spdSt = .verified
  | .close => s.status.phase = .opened
  | .conv => s.status.phase ≠ .stopped
  | .ldd _ => s.status.phase ≠ .stopped
  | .enc _ _ _ => s.status.phase ≠ .stopped
  | .reservedOp0 _ => True
  | .reservedOpE _ => True
  | .reservedOpF _ => True
  | .dacwr _ _ _ _ => True

/-! ### What stays the same -/

/-- The registers of 10_state R21 are the same in two states. -/
def SameRegisters (s t : State) : Prop :=
  t.cfg = s.cfg ∧ t.rbMode = s.rbMode ∧ t.rbBpw = s.rbBpw ∧ t.rbSpeed = s.rbSpeed ∧
    t.dreg = s.dreg ∧ t.txw = s.txw ∧ t.rxw = s.rxw ∧ t.status = s.status ∧ t.exit = s.exit ∧
    t.wireLog = s.wireLog

/-! ### Named premises -/

/-- CTRL_ANSWERS, for the request made now (60_exceptions R257). -/
def CtrlAnswers (s : State) (r : CtrlReq) : Prop := (s.peek (.ctrl r)).answered = true

/-- CTRL_FAITHFUL, for the request made now, with the accepted sets as an argument (42_link_config
R180). -/
def CtrlFaithful (acc : Param → Word → Bool) (s : State) (r : CtrlReq) : Prop :=
  match r with
  | .openDev _ => (s.peek (.ctrl r)).ok = true
  | .write p v => (s.peek (.ctrl r)).ok = acc p v
  | .read p =>
    ∀ v, s.ctrl.wrote p = some v →
      (s.peek (.ctrl r)).ok = true ∧ readValue p (s.peek (.ctrl r)).value = v
  | .xfer _ => True

/-- The last WIRE_LOG entry whose outcome was OK (43_transfer R198). -/
def lastOk (l : List WireEntry) : Option WireEntry :=
  l.reverse.find? (fun e => decide (e.outcome = .ok))

/-- ECHO_PRIOR, for a transfer made now (43_transfer R198): on a nominal link the received word is
the word of the previous OK entry; for the first OK transfer of a run it says nothing. -/
def EchoPrior (s : State) (d : Desc) : Prop :=
  nominalLink s.cfg.mode s.cfg.bpw = true →
    ∀ e, lastOk s.wireLog = some e → (s.peek (.ctrl (.xfer d))).miso = e.word

/-- LOOPBACK_ECHO, for a transfer made now (43_transfer R203): with LOOP = 1 the received word is
the word sent. -/
def LoopbackEcho (s : State) (d : Desc) : Prop :=
  loopMode s.cfg.mode = true → (s.peek (.ctrl (.xfer d))).miso = d.tx

end Machine
end Sys2Proof
end

