-- ==== Sys2Proof/Certificates/Slice0/Obligations.lean ====
section
/-!
DEFINITION. The statements for the provers. Each docstring names the rule of spec/ it formalises.
The error entry `State.raise` is stated field by field in `ErrorEntryTaken`; the other statements
name it where a rule says that an error is raised.
-/

open Sys2Proof Sys2Proof.Machine

/-! ### Encodings (30_encoding) -/

/-- For every instruction, decoding its encoding gives it back, with every operand at every value
its field admits (R80, R84 to R90). -/
def Obligations.DecodeOfEncode : Prop := ∀ i : Instr, decode (encode i) = .ok i

/-- A word that decodes is the encoding of what it decodes to: no word has two readings and no bit
of it is dropped (R91, R80). -/
def Obligations.EncodeOfDecode : Prop :=
  ∀ (w : CodeWord) (i : Instr), decode w = .ok i → encode i = w

/-- Which 32-bit words are commands (R91, R86 to R90): RSV is 0, and OP is 0xA with any IMM, or 0xB
with IMM[15:3] = 0, or 0x1 to 0x9, 0xC or 0xD with IMM = 0. -/
def Obligations.LegalCommandWords : Prop :=
  ∀ w : Word, (∃ i, decodeHc32 w = .ok i ∧ i.isCommand = true) ↔
    (w.extractLsb' 16 12 = 0#12 ∧
      (w.extractLsb' 28 4 = 0xA#4 ∨
        (w.extractLsb' 28 4 = 0xB#4 ∧ w.extractLsb' 3 13 = 0#13) ∨
        ((1 ≤ (w.extractLsb' 28 4).toNat ∧ (w.extractLsb' 28 4).toNat ≤ 9 ∨
            w.extractLsb' 28 4 = 0xC#4 ∨ w.extractLsb' 28 4 = 0xD#4) ∧
          w.extractLsb' 0 16 = 0#16)))

/-- Some words written out from the encodings of 30_encoding (R84 to R88, R80), and words that are
no instruction (R89). -/
def Obligations.DecodedWords : Prop :=
  decodeHc32 0x10000000#32 = .ok .ldcfg ∧ decodeHc32 0x20000000#32 = .ok .openDev ∧
    decodeHc32 0x90000000#32 = .ok .conv ∧ decodeHc32 0xA000FFFF#32 = .ok (.ldd 0xFFFF#16) ∧
    decodeHc32 0xB0000005#32 = .ok (.enc true false true) ∧
    decodeHc32 0xC0000000#32 = .ok .xfer ∧ decodeHc32 0xD0000000#32 = .ok .close ∧
    decodeCw16 0x9800#16 = .ok (.dacwr true false false 0x200#10) ∧
    decodeHc32 0xB0000008#32 = .error .immediateBits ∧
    decodeHc32 0xA0010000#32 = .error .reservedBits

/-! ### The Word Encoder (40_encoder) -/

/-- LDD's immediate (R86, R110): the word 0xA0000000 | IMM is LDD of IMM for every IMM, and LDD stores
it whole in DREG, in every phase but STOPPED, and changes nothing else. -/
def Obligations.LddLoadsImmediate : Prop :=
  ∀ (s : State) (imm : Half),
    decodeHc32 (0xA0000000#32 ||| imm.setWidth 32) = .ok (.ldd imm) ∧
    (s.status.phase ≠ .stopped → exec (.ldd imm) s = .next { s with dreg := some imm })

/-- ENC: with DREG holding d, TXW becomes the word of 30_encoding R80's layout, channel, buffer,
inverted gain, 1, d[9:0], 00, and nothing else changes; with DREG = ⊥ it raises UNWRITTEN (R112,
60_exceptions R241). -/
def Obligations.EncPacksWord : Prop :=
  ∀ (s : State) (ch buf g2x : Bool), s.status.phase ≠ .stopped →
    (∀ d, s.dreg = some d → exec (.enc ch buf g2x) s =
      .next { s with txw := some (cw16Of ch buf (!g2x) (d.extractLsb' 0 10)) }) ∧
    (s.dreg = none → exec (.enc ch buf g2x) s = .next (s.raise .unwritten))

/-- The bits of TXW after ENC (R113 to R116): the low bits and the code field, the active bit, the
inverted gain, the channel and the buffer bit. -/
def Obligations.EncodedBits : Prop :=
  ∀ (s : State) (ch buf g2x : Bool) (d : Half), s.status.phase ≠ .stopped → s.dreg = some d →
    ∃ t w, exec (.enc ch buf g2x) s = .next t ∧ t.txw = some w ∧
      w.extractLsb' 0 2 = 0#2 ∧ w.extractLsb' 2 10 = d.extractLsb' 0 10 ∧
      w &&& 0x0FFC#16 = (d &&& 0x3FF#16) <<< 2 ∧
      w.getLsbD 12 = true ∧ w.getLsbD 13 = !g2x ∧ w.getLsbD 15 = ch ∧ w.getLsbD 14 = buf

/-- Wraparound, not clamping (R117): two values of DREG that agree modulo 1024 give the same
TXW. -/
def Obligations.EncWrapsModulo1024 : Prop :=
  ∀ (s u : State) (ch buf g2x : Bool) (m n : Half),
    s.status.phase ≠ .stopped → u.status.phase ≠ .stopped →
    s.dreg = some m → u.dreg = some n → m.toNat % 1024 = n.toNat % 1024 →
    ∃ t v, exec (.enc ch buf g2x) s = .next t ∧ exec (.enc ch buf g2x) u = .next v ∧
      t.txw = v.txw

/-- Injectivity and reach (R120): on data 0 to 1023 no two inputs give one word, and every word with
bit 12 = 1 and bits 1:0 = 0 is given by one. The spec marks R120 as derived from R112. -/
def Obligations.EncoderBijective : Prop :=
  (∀ (c c' v v' g g' : Bool) (m n : Half), m.toNat < 1024 → n.toNat < 1024 →
    encWord c v g m = encWord c' v' g' n → c = c' ∧ v = v' ∧ g = g' ∧ m = n) ∧
  (∀ w : Half, IsCw16 w → ∃ (c v g : Bool) (m : Half), m.toNat < 1024 ∧ encWord c v g m = w)

/-- What ENC packs is read as the DAC's command word with the same fields (30_encoding R80 to
R82). -/
def Obligations.EncodedWordIsDacwr : Prop :=
  ∀ (ch buf g2x : Bool) (d : Half),
    decodeCw16 (encWord ch buf g2x d) = .ok (.dacwr ch buf (!g2x) (d.extractLsb' 0 10))

/-! ### The conversion (41_conversion) -/

/-- The rational value of a finite binary64 number. -/
def finiteValue (neg : Bool) (mant : Nat) (exp : Int) : ℚ :=
  (if neg then -1 else 1) * (mant : ℚ) * (2 : ℚ) ^ exp

/-- CONV (R131, R132): with q the binary64 quotient, if -1 < q < 65536 then DREG becomes q truncated
toward zero and nothing else changes; if q is finite and outside, or infinite, or not a number,
CONV_RANGE is raised. -/
def Obligations.ConvTruncatesQuotient : Prop :=
  ∀ s : State, s.status.phase ≠ .stopped →
    (∀ neg m e, convQuotient s.vin s.vref = .fin neg m e →
      (-1 < finiteValue neg m e ∧ finiteValue neg m e < 65536 →
        exec .conv s = .next { s with dreg := some (BitVec.ofInt 16
          (if finiteValue neg m e < 0 then ⌈finiteValue neg m e⌉ else ⌊finiteValue neg m e⌋)) }) ∧
      (¬ (-1 < finiteValue neg m e ∧ finiteValue neg m e < 65536) →
        exec .conv s = .next (s.raise .convRange))) ∧
    (∀ neg, convQuotient s.vin s.vref = .inf neg → exec .conv s = .next (s.raise .convRange)) ∧
    (convQuotient s.vin s.vref = .nan → exec .conv s = .next (s.raise .convRange))

/-- Rounding (00_scope R12): a finite result has the given sign, at most 53 significant bits and an
exponent of binary64's range, is at the smallest exponent or has its full 53 bits, and is within half
a unit in its last place, or a quarter from below where the next number below is half a unit away; a
tie is resolved to an even last bit. The result is infinite, with the given sign, exactly from halfway
beyond the largest finite value on, and is never not-a-number. -/
def Obligations.RoundingIsNearestEven : Prop :=
  ∀ (neg : Bool) (n d : Nat), 0 < d →
    (∀ neg' m e, roundRatio neg n d = .fin neg' m e →
      neg' = neg ∧ m < 2 ^ 53 ∧ -1074 ≤ e ∧ e ≤ 971 ∧ (2 ^ 52 ≤ m ∨ e = -1074) ∧
        |(n : ℚ) / d - (m : ℚ) * (2 : ℚ) ^ e| ≤ (2 : ℚ) ^ e / 2 ∧
        (m = 2 ^ 52 → e ≠ -1074 → (m : ℚ) * (2 : ℚ) ^ e - (n : ℚ) / d ≤ (2 : ℚ) ^ e / 4) ∧
        (|(n : ℚ) / d - (m : ℚ) * (2 : ℚ) ^ e| = (2 : ℚ) ^ e / 2 → m % 2 = 0)) ∧
    (roundRatio neg n d = .inf neg ↔
      (2 : ℚ) ^ (1024 : Int) - (2 : ℚ) ^ (970 : Int) ≤ (n : ℚ) / d) ∧
    roundRatio neg n d ≠ .inf (!neg) ∧ roundRatio neg n d ≠ .nan

/-- Multiplying by 1024 is exact unless the product overflows to infinity, which it does from 2^1024 on
(R137); the sign is VIN's. -/
def Obligations.Times1024IsExact : Prop :=
  ∀ (b : F64Bits) (neg : Bool) (m : Nat) (e : Int), f64OfBits b = .fin neg m e →
    ((m : ℚ) * (2 : ℚ) ^ e * 1024 < (2 : ℚ) ^ (1024 : Int) →
      ∃ m' e', mul64 (f64OfBits b) f64Of1024 = .fin neg m' e' ∧
        (m' : ℚ) * (2 : ℚ) ^ e' = (m : ℚ) * (2 : ℚ) ^ e * 1024) ∧
    ((2 : ℚ) ^ (1024 : Int) ≤ (m : ℚ) * (2 : ℚ) ^ e * 1024 →
      mul64 (f64OfBits b) f64Of1024 = .inf neg)

/-- The biased exponent of a binary64 number: its bits 62 to 52. -/
def rawExponent (b : F64Bits) : Nat := b.toNat / 2 ^ 52 % 2 ^ 11

/-- The fraction of a binary64 number: its bits 51 to 0. -/
def rawFraction (b : F64Bits) : Nat := b.toNat % 2 ^ 52

/-- The sign of a binary64 number: its bit 63. -/
def rawNegative (b : F64Bits) : Bool := decide (2 ^ 63 ≤ b.toNat)

/-- The magnitude of a finite binary64 number, from its bits: subnormal for biased exponent 0, else
with the leading 1 that is not stored. -/
def rawMagnitude (b : F64Bits) : ℚ :=
  if rawExponent b = 0 then (rawFraction b : ℚ) * (2 : ℚ) ^ (-1074 : Int)
  else (2 ^ 52 + rawFraction b : ℚ) * (2 : ℚ) ^ ((rawExponent b : Int) - 1075)

/-- CONV's quotient, from the bits of VIN and VREF (R131, R137, 00_scope R12): for finite VIN and
finite nonzero VREF it is the rounding of the exact ratio |VIN| * 1024 / |VREF| with the xor of the
signs, unless the product overflows, when it is infinite. A zero VREF, an infinity and not-a-number
take the values IEEE 754 gives them. -/
def Obligations.QuotientIsRoundedRatio : Prop :=
  ∀ vin vref : F64Bits,
    (rawExponent vin ≠ 2047 → rawExponent vref ≠ 2047 →
      rawMagnitude vin * 1024 < (2 : ℚ) ^ (1024 : Int) →
      (rawMagnitude vref ≠ 0 → ∃ n d : Nat, 0 < d ∧
        (n : ℚ) / d = rawMagnitude vin * 1024 / rawMagnitude vref ∧
        convQuotient vin vref = roundRatio (rawNegative vin ^^ rawNegative vref) n d) ∧
      (rawMagnitude vref = 0 → rawMagnitude vin ≠ 0 →
        convQuotient vin vref = .inf (rawNegative vin ^^ rawNegative vref)) ∧
      (rawMagnitude vref = 0 → rawMagnitude vin = 0 → convQuotient vin vref = .nan)) ∧
    (rawExponent vin ≠ 2047 → (2 : ℚ) ^ (1024 : Int) ≤ rawMagnitude vin * 1024 →
      (rawExponent vref ≠ 2047 →
        convQuotient vin vref = .inf (rawNegative vin ^^ rawNegative vref)) ∧
      (rawExponent vref = 2047 → convQuotient vin vref = .nan)) ∧
    (rawExponent vin = 2047 → rawFraction vin = 0 →
      (rawExponent vref ≠ 2047 →
        convQuotient vin vref = .inf (rawNegative vin ^^ rawNegative vref)) ∧
      (rawExponent vref = 2047 → convQuotient vin vref = .nan)) ∧
    (rawExponent vin ≠ 2047 → rawMagnitude vin * 1024 < (2 : ℚ) ^ (1024 : Int) →
      rawExponent vref = 2047 → rawFraction vref = 0 →
      convQuotient vin vref = .fin (rawNegative vin ^^ rawNegative vref) 0 (-1074)) ∧
    (rawExponent vin = 2047 → rawFraction vin ≠ 0 → convQuotient vin vref = .nan) ∧
    (rawExponent vref = 2047 → rawFraction vref ≠ 0 → convQuotient vin vref = .nan)

/-- Full scale wraps (R131, R134): VIN = VREF, for any finite nonzero VREF whose product with 1024
does not overflow, gives DREG = 1024, and ENC then packs the code 0. The spec marks R134 as derived.
-/
def Obligations.FullScaleWrapsToZero : Prop :=
  ∀ (s : State) (ch buf g2x : Bool) (neg : Bool) (m : Nat) (e : Int),
    s.status.phase ≠ .stopped → s.vin = s.vref → f64OfBits s.vref = .fin neg m e → m ≠ 0 →
    (m : ℚ) * (2 : ℚ) ^ e * 1024 < (2 : ℚ) ^ (1024 : Int) →
    exec .conv s = .next { s with dreg := some 1024#16 } ∧
      ∃ t w, exec (.enc ch buf g2x) { s with dreg := some 1024#16 } = .next t ∧
        t.txw = some w ∧ w.extractLsb' 2 10 = 0#10

/-- VREF is constant for the run (R136): no step changes it. -/
def Obligations.VrefIsConstant : Prop :=
  ∀ s t : State, step s = .next t → t.vref = s.vref

/-! ### Link configuration (42_link_config) -/

/-- LDCFG (R150): in IDLE the five CFG_* registers take CFG_IN and nothing else changes; in CLOSED
and OPEN it raises SEQUENCE. -/
def Obligations.LdcfgLatchesPort : Prop :=
  ∀ s : State,
    (s.status.phase = .idle → exec .ldcfg s = .next { s with cfg := s.cfgIn }) ∧
    (s.status.phase = .closed ∨ s.status.phase = .opened →
      exec .ldcfg s = .next (s.raise .sequence))

/-- OPEN (R152): in IDLE or CLOSED, once the controller answers OK, PHASE is OPEN and the ST fields
are 0; once it answers FAIL, CFG_OPEN is raised; in OPEN it raises SEQUENCE. That the answer takes a
draw, and that the controller's settings are then the draw's, with no write accepted yet, are the
model's log 1 and 2. -/
def Obligations.OpenOpensDevice : Prop :=
  ∀ (s : State) (a : Draw), s.peek (.ctrl (.openDev s.cfg.path)) = a →
    (s.status.phase = .idle ∨ s.status.phase = .closed → a.answered = true →
      (a.ok = true → exec .openDev s = .next { s.tick with
          waiting := none
          status := { s.status with
            phase := .opened, modeSt := .none, bpwSt := .none, spdSt := .none }
          ctrl := { held := true, mode := a.setMode, bpw := a.setBpw, speed := a.setSpeed,
                    wroteMode := none, wroteBpw := none, wroteSpeed := none } }) ∧
      (a.ok = false → exec .openDev s =
        .next (({ s.tick with waiting := none, ctrl := { s.ctrl with
          mode := a.setMode, bpw := a.setBpw, speed := a.setSpeed } } : State).raise .cfgOpen))) ∧
    (s.status.phase = .opened → exec .openDev s = .next (s.raise .sequence))

/-- WRMODE, WRBPW and WRSPD (R156, R164, R170): in OPEN, once the controller answers OK, the
parameter's ST field is 1 and the controller has accepted the configured value, and nothing else
changes; once it answers FAIL, CFG_WR_MODE, CFG_WR_BPW or CFG_WR_SPEED is raised. That every answer
takes a draw, and that the controller's settings are then the draw's, are the model's log 1 and 2. -/
def Obligations.WritesComplete : Prop :=
  ∀ s : State, s.status.phase = .opened →
    (∀ a, s.peek (.ctrl (.write .mode (s.cfg.mode.setWidth 32))) = a → a.answered = true →
      (a.ok = true → exec .wrmode s = .next { s.tick with
        waiting := none, status := { s.status with modeSt := .written }
        ctrl := { s.ctrl with
          mode := a.setMode, bpw := a.setBpw, speed := a.setSpeed
          wroteMode := some s.cfg.mode } }) ∧
      (a.ok = false → exec .wrmode s =
        .next (({ s.tick with waiting := none, ctrl := { s.ctrl with
          mode := a.setMode, bpw := a.setBpw, speed := a.setSpeed } } : State).raise
            .cfgWrMode))) ∧
    (∀ a, s.peek (.ctrl (.write .bpw (s.cfg.bpw.setWidth 32))) = a → a.answered = true →
      (a.ok = true → exec .wrbpw s = .next { s.tick with
        waiting := none, status := { s.status with bpwSt := .written }
        ctrl := { s.ctrl with
          mode := a.setMode, bpw := a.setBpw, speed := a.setSpeed
          wroteBpw := some s.cfg.bpw } }) ∧
      (a.ok = false → exec .wrbpw s =
        .next (({ s.tick with waiting := none, ctrl := { s.ctrl with
          mode := a.setMode, bpw := a.setBpw, speed := a.setSpeed } } : State).raise
            .cfgWrBpw))) ∧
    (∀ a, s.peek (.ctrl (.write .speed s.cfg.speed)) = a → a.answered = true →
      (a.ok = true → exec .wrspd s = .next { s.tick with
        waiting := none, status := { s.status with spdSt := .written }
        ctrl := { s.ctrl with
          mode := a.setMode, bpw := a.setBpw, speed := a.setSpeed
          wroteSpeed := some s.cfg.speed } }) ∧
      (a.ok = false → exec .wrspd s =
        .next (({ s.tick with waiting := none, ctrl := { s.ctrl with
          mode := a.setMode, bpw := a.setBpw, speed := a.setSpeed } } : State).raise
            .cfgWrSpeed)))

/-- RDMODE, RDBPW and RDSPD complete (R160, R166, R172): in OPEN with the ST field 1 or 2, once the
controller answers OK with the configured value, the read-back register holds it, the ST field is 2,
and nothing else changes. That every answer takes a draw is the model's log 1. -/
def Obligations.ReadBacksComplete : Prop :=
  ∀ s : State, s.status.phase = .opened →
    (s.status.modeSt = .written ∨ s.status.modeSt = .verified →
      (s.peek (.ctrl (.read .mode))).answered = true → (s.peek (.ctrl (.read .mode))).ok = true →
      (s.peek (.ctrl (.read .mode))).value.setWidth 8 = s.cfg.mode →
      exec .rdmode s = .next { s.tick with
        waiting := none, status := { s.status with modeSt := .verified }
        rbMode := some s.cfg.mode }) ∧
    (s.status.bpwSt = .written ∨ s.status.bpwSt = .verified →
      (s.peek (.ctrl (.read .bpw))).answered = true → (s.peek (.ctrl (.read .bpw))).ok = true →
      (s.peek (.ctrl (.read .bpw))).value.setWidth 8 = s.cfg.bpw →
      exec .rdbpw s = .next { s.tick with
        waiting := none, status := { s.status with bpwSt := .verified }
        rbBpw := some s.cfg.bpw }) ∧
    (s.status.spdSt = .written ∨ s.status.spdSt = .verified →
      (s.peek (.ctrl (.read .speed))).answered = true → (s.peek (.ctrl (.read .speed))).ok = true →
      (s.peek (.ctrl (.read .speed))).value = s.cfg.speed →
      exec .rdspd s = .next { s.tick with
        waiting := none, status := { s.status with spdSt := .verified }
        rbSpeed := some s.cfg.speed })

/-- A read-back that differs leaves the value that was read in the read-back register and raises
CFG_MODE_MISMATCH, CFG_BPW_MISMATCH or CFG_SPEED_MISMATCH; one that fails leaves the register and
raises CFG_RD_MODE, CFG_RD_BPW or CFG_RD_SPEED (R160, R166, R172). -/
def Obligations.ReadBackErrorsRaise : Prop :=
  ∀ s : State, s.status.phase = .opened →
    (s.status.modeSt ≠ .none → (s.peek (.ctrl (.read .mode))).answered = true →
      (s.peek (.ctrl (.read .mode))).ok = true →
      (s.peek (.ctrl (.read .mode))).value.setWidth 8 ≠ s.cfg.mode →
      exec .rdmode s = .next (({ s.tick with
        waiting := none, rbMode := some ((s.peek (.ctrl (.read .mode))).value.setWidth 8) }
          : State).raise .cfgModeMismatch)) ∧
    (s.status.bpwSt ≠ .none → (s.peek (.ctrl (.read .bpw))).answered = true →
      (s.peek (.ctrl (.read .bpw))).ok = true →
      (s.peek (.ctrl (.read .bpw))).value.setWidth 8 ≠ s.cfg.bpw →
      exec .rdbpw s = .next (({ s.tick with
        waiting := none, rbBpw := some ((s.peek (.ctrl (.read .bpw))).value.setWidth 8) }
          : State).raise .cfgBpwMismatch)) ∧
    (s.status.spdSt ≠ .none → (s.peek (.ctrl (.read .speed))).answered = true →
      (s.peek (.ctrl (.read .speed))).ok = true →
      (s.peek (.ctrl (.read .speed))).value ≠ s.cfg.speed →
      exec .rdspd s = .next (({ s.tick with
        waiting := none, rbSpeed := some (s.peek (.ctrl (.read .speed))).value }
          : State).raise .cfgSpeedMismatch)) ∧
    (s.status.modeSt ≠ .none → (s.peek (.ctrl (.read .mode))).answered = true →
      (s.peek (.ctrl (.read .mode))).ok = false →
      exec .rdmode s = .next (({ s.tick with waiting := none } : State).raise .cfgRdMode)) ∧
    (s.status.bpwSt ≠ .none → (s.peek (.ctrl (.read .bpw))).answered = true →
      (s.peek (.ctrl (.read .bpw))).ok = false →
      exec .rdbpw s = .next (({ s.tick with waiting := none } : State).raise .cfgRdBpw)) ∧
    (s.status.spdSt ≠ .none → (s.peek (.ctrl (.read .speed))).answered = true →
      (s.peek (.ctrl (.read .speed))).ok = false →
      exec .rdspd s = .next (({ s.tick with waiting := none } : State).raise .cfgRdSpeed))

/-- CLOSE (R176): in OPEN it always succeeds: the handle is released, PHASE is CLOSED, the ST fields
are 0, and nothing else changes; in IDLE and CLOSED it raises SEQUENCE. That the controller's settings
stay across CLOSE is the model's choice (log 2), not the spec's. -/
def Obligations.CloseReleasesHandle : Prop :=
  ∀ s : State,
    (s.status.phase = .opened → exec .close s = .next { s with
      status := { s.status with
        phase := .closed, modeSt := .none, bpwSt := .none, spdSt := .none }
      ctrl := { s.ctrl with held := false } }) ∧
    (s.status.phase = .idle ∨ s.status.phase = .closed →
      exec .close s = .next (s.raise .sequence))

/-- A command the controller does not answer waits and does nothing else (60_exceptions R257): for
each of the eight commands that ask it, with the precondition of that command. The model's choices
are how the request is kept (log 9), that every try takes a draw (log 1), that a try without an answer
leaves the controller's settings (log 2) and, for XFER, the DAC's data (log 10). -/
def Obligations.SilentControllerKeepsWaiting : Prop :=
  ∀ s : State,
    (s.status.phase = .idle ∨ s.status.phase = .closed →
      (s.peek (.ctrl (.openDev s.cfg.path))).answered = false →
      exec .openDev s = .next { s.tick with waiting := some (.openDev s.cfg.path) }) ∧
    (s.status.phase = .opened →
      (∀ p i, i = (match p with | Param.mode => Instr.wrmode | .bpw => .wrbpw | .speed => .wrspd) →
        (s.peek (.ctrl (.write p (cfgParam s.cfg p)))).answered = false →
        exec i s = .next { s.tick with waiting := some (.write p (cfgParam s.cfg p)) }) ∧
      (∀ p i, i = (match p with | Param.mode => Instr.rdmode | .bpw => .rdbpw | .speed => .rdspd) →
        s.status.st p ≠ .none → (s.peek (.ctrl (.read p))).answered = false →
        exec i s = .next { s.tick with waiting := some (.read p) }) ∧
      (∀ w, s.txw = some w → s.cfg.bpw = 16#8 → s.status.modeSt = .verified →
        s.status.bpwSt = .verified → s.status.spdSt = .verified →
        (s.peek (.ctrl (.xfer (descOf s.cfg w)))).answered = false →
        exec .xfer s = .next { s.tick with waiting := some (.xfer (descOf s.cfg w)) }))

/-- Under CTRL_FAITHFUL a write is fatal exactly when the value is outside the accepted set, and a
read-back of a parameter that has been written since the open verifies (R180); the second holds in
states that meet the invariant of the verification state. -/
def Obligations.FaithfulControllerVerifies : Prop :=
  ∀ (s : State) (acc : Param → Word → Bool) (p : Param) (wr rd : Instr),
    s.status.phase = .opened →
    wr = (match p with | Param.mode => Instr.wrmode | .bpw => .wrbpw | .speed => .wrspd) →
    rd = (match p with | Param.mode => Instr.rdmode | .bpw => .rdbpw | .speed => .rdspd) →
    (CtrlAnswers s (.write p (cfgParam s.cfg p)) →
      CtrlFaithful acc s (.write p (cfgParam s.cfg p)) →
      ∃ t, exec wr s = .next t ∧
        (acc p (cfgParam s.cfg p) = true → t.status.phase = .opened ∧ t.status.st p = .written) ∧
        (acc p (cfgParam s.cfg p) = false → t.status.phase = .stopped)) ∧
    (VerifyInv s → s.status.st p ≠ .none → CtrlAnswers s (.read p) →
      CtrlFaithful acc s (.read p) →
      ∃ t, exec rd s = .next t ∧ t.status.phase = .opened ∧ t.status.st p = .verified)

/-! ### The transfer (43_transfer) -/

/-- XFER succeeds (R190, R195): with the handle open, all three parameters verified, TXW holding w
and CFG_BPW = 16, once the controller answers with a count of at least 2, RXW is the received word
and WIRE_LOG gains exactly one OK entry; TXW, DREG, the CFG_* and RB_* registers, STATUS and EXIT
keep their values, and so do the ports, VREF, the host and the controller's handle. That the answer
takes a draw (log 1), that the controller's settings stay across XFER (log 2) and the field for the
DAC's data (log 10) are the model's choices. -/
def Obligations.XferExchangesWord : Prop :=
  ∀ (s : State) (w : Half) (a : Draw), s.status.phase = .opened →
    s.status.modeSt = .verified → s.status.bpwSt = .verified → s.status.spdSt = .verified →
    s.txw = some w → s.cfg.bpw = 16#8 → s.peek (.ctrl (.xfer (descOf s.cfg w))) = a →
    a.answered = true → 2 ≤ a.count →
    ∃ v, exec .xfer s = .next { s.tick with
      waiting := none
      rxw := some a.miso
      wireLog := s.wireLog ++ [{ word := w, mode := s.cfg.mode, bpw := s.cfg.bpw,
                                 speed := s.cfg.speed, delay := s.cfg.delay, outcome := .ok,
                                 miso := some a.miso }]
      dacWord := v }

/-- What the DAC receives in a completed XFER (R205, and the model's log 10 for holding it): on a
nominal link the word it reads from MOSI is TXW; on any other link it is the draw's. -/
def Obligations.DacReadsTransmittedWord : Prop :=
  ∀ (s t : State) (w : Half) (a : Draw), s.status.phase = .opened →
    s.status.modeSt = .verified → s.status.bpwSt = .verified → s.status.spdSt = .verified →
    s.txw = some w → s.cfg.bpw = 16#8 → s.peek (.ctrl (.xfer (descOf s.cfg w))) = a →
    a.answered = true → 2 ≤ a.count → exec .xfer s = .next t →
    t.dacWord = if nominalLink s.cfg.mode s.cfg.bpw then w else a.dacTakes.getD s.dacWord

/-- A Transfer Error (R190, R194): a count below 2, negative ones included, appends a SHORT entry,
leaves RXW without a value and raises XFER_SHORT; what the DAC took is the draw's (R199). That the
answer takes a draw (log 1), that the controller's settings stay (log 2) and the field for the DAC's
data (log 10) are the model's choices. -/
def Obligations.ShortTransferRaises : Prop :=
  ∀ (s : State) (w : Half) (a : Draw), s.status.phase = .opened →
    s.status.modeSt = .verified → s.status.bpwSt = .verified → s.status.spdSt = .verified →
    s.txw = some w → s.cfg.bpw = 16#8 → s.peek (.ctrl (.xfer (descOf s.cfg w))) = a →
    a.answered = true → a.count < 2 →
    exec .xfer s = .next (({ s.tick with
      waiting := none
      rxw := none
      wireLog := s.wireLog ++ [{ word := w, mode := s.cfg.mode, bpw := s.cfg.bpw,
                                 speed := s.cfg.speed, delay := s.cfg.delay, outcome := .short,
                                 miso := none }]
      dacWord := a.dacTakes.getD s.dacWord } : State).raise .xferShort)

/-- XFER's own checks, in the order of 60_exceptions R252: TXW = ⊥ raises UNWRITTEN, whatever
CFG_BPW is; then CFG_BPW ≠ 16 raises UNMODELLED_BPW (R190, R193). The controller is not asked. -/
def Obligations.XferChecksInOrder : Prop :=
  ∀ s : State, s.status.phase = .opened →
    s.status.modeSt = .verified → s.status.bpwSt = .verified → s.status.spdSt = .verified →
    (s.txw = none → exec .xfer s = .next (s.raise .unwritten)) ∧
    (∀ w, s.txw = some w → s.cfg.bpw ≠ 16#8 → exec .xfer s = .next (s.raise .unmodelledBpw))

/-- Serialisation (R196): the k-th bit on MOSI is TXW[15 - k], or TXW[k] when LSB_FIRST = 1; the
k-th bit from MISO goes to RXW[15 - k], or RXW[k]. -/
def Obligations.WireSerialisation : Prop :=
  ∀ (mode : Byte) (tx rx : Half) (k : Nat), k < 16 →
    (lsbFirst mode = false → (spiFrame mode tx rx).mosi[k]? = some (tx.getLsbD (15 - k))) ∧
    (lsbFirst mode = true → (spiFrame mode tx rx).mosi[k]? = some (tx.getLsbD k)) ∧
    (∀ bits : List Bool,
      (wireWord false bits).getLsbD (15 - k) = bits.getD k false ∧
      (wireWord true bits).getLsbD k = bits.getD k false) ∧
    wireWord (lsbFirst mode) (spiFrame mode tx rx).miso = rx

/-- The mode-register test for a nominal link (R204). The spec marks this form of the test as
derived from 10_state R27. -/
def Obligations.NominalLinkTest : Prop :=
  ∀ mode bpw : Byte, nominalLink mode bpw = true ↔
    bpw = 16#8 ∧ mode &&& 0xFC#8 = 0#8 ∧
      (mode.extractLsb' 0 2 = 0b00#2 ∨ mode.extractLsb' 0 2 = 0b11#2)

/-- Under ECHO_PRIOR (R198), after a successful XFER on a nominal link that is not the first OK
transfer of the run, ECHO is the code field of the previous OK entry's word. -/
def Obligations.EchoPriorShowsPreviousCode : Prop :=
  ∀ (s t : State) (w : Half) (e : WireEntry), s.status.phase = .opened →
    s.status.modeSt = .verified → s.status.bpwSt = .verified → s.status.spdSt = .verified →
    s.txw = some w → s.cfg.bpw = 16#8 → nominalLink s.cfg.mode s.cfg.bpw = true →
    (s.peek (.ctrl (.xfer (descOf s.cfg w)))).answered = true →
    2 ≤ (s.peek (.ctrl (.xfer (descOf s.cfg w)))).count →
    EchoPrior s (descOf s.cfg w) → lastOk s.wireLog = some e →
    exec .xfer s = .next t →
    t.echo = some (e.word.extractLsb' 2 10) ∧ ∃ e', lastOk t.wireLog = some e' ∧ e'.word = w

/-- Under LOOPBACK_ECHO (R203), a successful XFER with LOOP = 1 receives the word it sent. -/
def Obligations.LoopbackReceivesSentWord : Prop :=
  ∀ (s t : State) (w : Half), s.status.phase = .opened →
    s.status.modeSt = .verified → s.status.bpwSt = .verified → s.status.spdSt = .verified →
    s.txw = some w → s.cfg.bpw = 16#8 → loopMode s.cfg.mode = true →
    (s.peek (.ctrl (.xfer (descOf s.cfg w)))).answered = true →
    2 ≤ (s.peek (.ctrl (.xfer (descOf s.cfg w)))).count →
    LoopbackEcho s (descOf s.cfg w) → exec .xfer s = .next t → t.rxw = some w

/-- The two bytes of a buffer give the word back in either byte order, so no rule's result depends
on HOST_ENDIAN (20_memory R60, R61). -/
def Obligations.BufferOrderDoesNotShow : Prop :=
  ∀ (e : Endian) (w : Half), bufWord e (bufBytes e w) = some w ∧ (bufBytes e w).length = 2

/-! ### The DAC's word (30_encoding R80) -/

/-- DACWR: the DAC holds the word with the fields of R80 and nothing else changes; it is the device's
instruction, so no phase is asked for (R205; the model's log 10 and 11). A word that arrives at the
DAC's serial input is taken while an XFER waits, and has no effect outside one: the DAC's steps occur
only inside a command's step (00_scope R16, and log 11 for the word that arrives). -/
def Obligations.DacwrIsRead : Prop :=
  (∀ (s : State) (ch buf gaN : Bool) (data : BitVec 10), ∃ w,
    exec (.dacwr ch buf gaN data) s = .next { s with dacWord := w } ∧
      dacFields w = { ch := ch, buf := buf, gaN := gaN, act := true, data := data } ∧
      w.extractLsb' 0 2 = 0#2) ∧
  (∀ (s : State) (w : Half), s.arrival = some (.dacWord w) →
    (s.status.phase = .opened → (∃ d, s.waiting = some (.xfer d)) →
      step s = .next { s.advance with dacWord := w }) ∧
    (s.status.phase ≠ .opened ∨ (∀ d, s.waiting ≠ some (.xfer d)) → step s = .next s.advance))

/-! ### Errors, the kill and the ends of a run (60_exceptions, 45_host_sequences) -/

/-- The error entry, field by field (60_exceptions R250): ERR and FAULTCLASS are written, an open
handle is released, PHASE is STOPPED, EXIT is 1 for USAGE and ABORT_STATUS otherwise; the ST fields,
KILLED and every other register keep their values; and no later command runs. That no request waits
after it (log 7) and that the controller's settings stay (log 2) are the model's choices. -/
def Obligations.ErrorEntryTaken : Prop :=
  ∀ (s : State) (e : ErrCode), s.raise e = { s with
    status := { s.status with
      err := e, faultClass := decide (13 ≤ e.code.toNat), phase := .stopped }
    ctrl := if s.status.phase = .opened then { s.ctrl with held := false } else s.ctrl
    exit := some (if e = .usage then 1#8 else Config.abortStatus)
    waiting := none } ∧
    ∀ i : Instr, i.wfOn .cmd = true → exec i (s.raise e) = .next (s.raise e)

/-- The precondition table (70_reset_and_hazards R280): for each of the 13 commands, outside STOPPED,
a command whose row of the table says no raises SEQUENCE, and one whose row says yes does not; in
STOPPED none is taken. -/
def Obligations.PreconditionTable : Prop :=
  ∀ (s : State) (i : Instr), i.isCommand = true →
    (s.status.phase ≠ .stopped → ¬ MayRun s i → exec i s = .next (s.raise .sequence)) ∧
    (s.status.err ≠ .sequence → MayRun s i → ∃ t, exec i s = .next t ∧ t.status.err ≠ .sequence) ∧
    (s.status.phase = .stopped → exec i s = .next s)

/-- The reserved operations raise ILLEGAL_COMMAND in every phase but STOPPED, whatever their other
bits are (30_encoding R90, 60_exceptions R242). -/
def Obligations.ReservedOperationsRaise : Prop :=
  ∀ (s : State) (low : BitVec 28), s.status.phase ≠ .stopped →
    exec (.reservedOp0 low) s = .next (s.raise .illegalCommand) ∧
    exec (.reservedOpE low) s = .next (s.raise .illegalCommand) ∧
    exec (.reservedOpF low) s = .next (s.raise .illegalCommand)

/-- A word with RSV ≠ 0, and a word whose IMM bits are nonzero where R87 or R88 requires 0, raises
ILLEGAL_COMMAND before any other check when the host issues it (30_encoding R89, 60_exceptions
R242). -/
def Obligations.ReservedBitsRaise : Prop :=
  ∀ (s : State) (p : HostProgram) (c : HostCmd), s.arrival = none → s.waiting = none →
    s.status.phase ≠ .stopped → s.host = some p → p.cmds[p.hpc]? = some c →
    (c.word.extractLsb' 16 12 ≠ 0#12 ∨
      (c.word.extractLsb' 28 4 = 0xB#4 ∧ c.word.extractLsb' 3 13 ≠ 0#13) ∨
      (c.word.extractLsb' 28 4 ≠ 0xA#4 ∧ c.word.extractLsb' 28 4 ≠ 0xB#4 ∧
        c.word.extractLsb' 0 16 ≠ 0#16)) →
    step s = .next ((s.advance.present c).raise .illegalCommand)

/-- STOPPED is final for commands (60_exceptions R255): no command and no reserved word changes
anything. -/
def Obligations.StoppedTakesNoCommand : Prop :=
  ∀ (s : State) (i : Instr), s.status.phase = .stopped → i.wfOn .cmd = true →
    exec i s = .next s

/-- STOPPED is final for a run (60_exceptions R255): however many steps follow, and whatever arrives
at them except reset, the registers of 10_state R21 stay as they are and DONE is not raised. -/
def Obligations.StoppedIsFinal : Prop :=
  ∀ (n : Nat) (s t : State), s.status.phase = .stopped →
    (∀ k, k < n → s.arrivalAt k ≠ some .reset) →
    core.run n s = .next t → SameRegisters s t ∧ t.done = false

/-- The kill (60_exceptions R256): between commands, while OPEN, a write or a read-back waits, and
while a transfer waits. The word logged is the waiting descriptor's, which the invariant of a waiting
command says is TXW. How the controller's unknown settings and what the DAC took are drawn is the
model's log 2, 10 and 17. -/
def Obligations.KillStopsBlock : Prop :=
  ∀ s : State, s.arrival = some .kill → s.status.phase ≠ .stopped →
    ∃ t, step s = .next t ∧
      t.status = { s.status with killed := true, phase := .stopped } ∧
      t.exit = some Config.killStatus ∧ t.waiting = none ∧
      t.ctrl.held = (if s.status.phase = .opened then false else s.ctrl.held) ∧
      t.cfg = s.cfg ∧ t.dreg = s.dreg ∧ t.txw = s.txw ∧ t.rbMode = s.rbMode ∧
      t.rbBpw = s.rbBpw ∧ t.rbSpeed = s.rbSpeed ∧
      (∀ d, s.waiting = some (.xfer d) → t.rxw = none ∧
        t.wireLog = s.wireLog ++ [{ word := d.tx, mode := s.cfg.mode, bpw := s.cfg.bpw,
                                    speed := s.cfg.speed, delay := s.cfg.delay,
                                    outcome := .killed, miso := none }] ∧
        t.dacWord = (s.peek (.cutOff (.xfer d))).dacTakes.getD s.dacWord) ∧
      ((∀ d, s.waiting ≠ some (.xfer d)) →
        t.rxw = s.rxw ∧ t.wireLog = s.wireLog ∧ t.dacWord = s.dacWord) ∧
      (∀ r, s.waiting = some r → (∀ d, r ≠ .xfer d) →
        t.ctrl.mode = (s.peek (.cutOff r)).setMode ∧ t.ctrl.bpw = (s.peek (.cutOff r)).setBpw ∧
        t.ctrl.speed = (s.peek (.cutOff r)).setSpeed)

/-- `usage_stop` (45_host_sequences R229): in IDLE it takes the error entry with USAGE, EXIT = 1; in
every other phase it is ignored. The phase alone decides: in IDLE it is taken while an OPEN waits too.
That the OPEN is then cut off, and what becomes of the controller, are the model's choice (log 7); in
IDLE no other command waits. -/
def Obligations.UsageStopOnlyInIdle : Prop :=
  ∀ s : State, s.arrival = some .usageStop →
    (s.status.phase = .idle →
      (s.waiting = none → step s = .next (s.advance.raise .usage)) ∧
      ∃ t, step s = .next t ∧
        t.status = { s.status with err := .usage, faultClass := false, phase := .stopped } ∧
        t.exit = some 1#8 ∧ t.waiting = none ∧ t.cfg = s.cfg ∧ t.rbMode = s.rbMode ∧
        t.rbBpw = s.rbBpw ∧ t.rbSpeed = s.rbSpeed ∧ t.dreg = s.dreg ∧ t.txw = s.txw ∧
        t.rxw = s.rxw ∧ t.wireLog = s.wireLog ∧ t.ctrl.held = s.ctrl.held) ∧
    (s.status.phase ≠ .idle → step s = .next s.advance)

/-- `end` (45_host_sequences R232): when hpc has passed the last command, an open handle is
released, PHASE is STOPPED and EXIT is 0; ERR, FAULTCLASS, KILLED, the ST fields and every other
register keep their values, so the first three stay 0 in a state that meets StopInv. That the
controller's settings stay is the model's choice (log 2). -/
def Obligations.NormalEnd : Prop :=
  ∀ (s : State) (p : HostProgram), s.arrival = none → s.waiting = none →
    s.status.phase ≠ .stopped → s.host = some p → p.cmds.length ≤ p.hpc →
    step s = .next { s.advance with
      status := { s.status with phase := .stopped }
      ctrl := if s.status.phase = .opened then { s.ctrl with held := false } else s.ctrl
      exit := some 0#8 } ∧
    (StopInv s →
      s.status.err = .none ∧ s.status.faultClass = false ∧ s.status.killed = false)

/-! ### Reset (70_reset_and_hazards, 10_state R49) -/

/-- The values of 10_state R49 at reset. The default path, the default speed, the controller's
settings and the DAC's data are the open parameters and draws R49 names: constants with no body. How
the settings and the DAC's data are held is the model's log 2 and 10. -/
def Obligations.ResetValues : Prop :=
  State.reset.cfg = { path := Config.defaultDevice, mode := 0x00#8, bpw := 16#8,
                      speed := Config.defaultSpeedHz, delay := 0#16 } ∧
    State.reset.rbMode = none ∧ State.reset.rbBpw = none ∧ State.reset.rbSpeed = none ∧
    State.reset.dreg = none ∧ State.reset.txw = none ∧ State.reset.rxw = none ∧
    State.reset.echo = none ∧ State.reset.status.word = 0x00000000#32 ∧
    State.reset.status.phase = .idle ∧ State.reset.exit = none ∧ State.reset.wireLog = [] ∧
    State.reset.ctrl.mode = Config.ctrlModeAtReset ∧
    State.reset.ctrl.bpw = Config.ctrlBpwAtReset ∧
    State.reset.ctrl.speed = Config.ctrlSpeedAtReset ∧
    State.reset.dacWord = Config.dacAtReset

/-- Reset as an event (70_reset_and_hazards R270): from every state, STOPPED included, the registers
take their reset values; when no command waits, the controller's settings and the DAC are not
touched (what a command that waits leaves is the model's log 13). -/
def Obligations.ResetRestoresRegisters : Prop :=
  ∀ s : State, s.arrival = some .reset →
    ∃ t, step s = .next t ∧ SameRegisters State.reset t ∧ t.waiting = none ∧
      t.ctrl.held = false ∧
      (s.waiting = none → t.dacWord = s.dacWord ∧ t.ctrl = { s.ctrl with held := false })

/-! ### One step (00_scope R16, 20_memory R66, 45_host_sequences R231) -/

/-- A step runs the decoded instruction: with nothing arriving, the block not stopped, nothing in
flight and the host at a command whose word decodes to i, step is exec of i on the state with the
command's port values, and what follows a command (`HpcAdvances`) is done after it. The port values
(10_state R20, 45_host_sequences R231, R223): CFG_IN shows the command's record, or stays; VIN shows the
command's value, or that of the prompt, for which alone a draw is taken, or stays; nothing else
changes. That a step counts itself and uses up what was to arrive, and how a draw is taken, are the
model's log 7 and 1. -/
def Obligations.StepRunsDecodedCommand : Prop :=
  (∀ (s : State) (p : HostProgram) (c : HostCmd) (i : Instr), s.arrival = none →
    s.status.phase ≠ .stopped → s.waiting = none → s.host = some p →
    p.cmds[p.hpc]? = some c → decodeHc32 c.word = .ok i →
    step s = finishCommand (exec i (s.advance.present c))) ∧
  (∀ t : State, finishCommand (.next t) = .next t.afterCommand) ∧
  (∀ s : State, s.advance = { s with inbox := s.inbox.tail, eventCount := s.eventCount + 1 } ∧
    s.tick = { s with draws := s.draws.tail, drawCount := s.drawCount + 1 }) ∧
  (∀ (s : State) (c : HostCmd), ∃ r : LinkConfig,
    (∀ x, c.cfgIn = some x → r = x) ∧ (c.cfgIn = none → r = s.cfgIn) ∧
    (c.vin = .hold → s.present c = { s with cfgIn := r }) ∧
    (∀ v, c.vin = .value v → s.present c = { s with cfgIn := r, vin := v }) ∧
    (c.vin = .prompt →
      s.present c = { s.tick with cfgIn := r, vin := (s.peek .prompt).volts }))

/-- What follows a command (45_host_sequences R231, R223): once it has completed without stopping the
block, hpc is one further, or at the loop's target after the last command of a SESSION, and the host
has read the registers its program reads there, as the read port shows them (R222, and the model's
log 18 for when it reads); no register changes (10_state R50). While the command waits and when the
block stops, nothing changes. -/
def Obligations.HpcAdvances : Prop :=
  ∀ (t : State) (p : HostProgram) (c : HostCmd), t.host = some p → p.cmds[p.hpc]? = some c →
    (t.waiting = none → t.status.phase ≠ .stopped →
      ∃ n, t.afterCommand = { t with
          host := some { p with hpc := n }
          hostReads := t.hostReads ++ c.reads.map (fun r => (r, t.readPort r)) } ∧
        (p.loopTo = none → n = p.hpc + 1) ∧
        (∀ k, p.loopTo = some k → n = if p.hpc + 1 < p.cmds.length then p.hpc + 1 else k)) ∧
    (t.waiting ≠ none ∨ t.status.phase = .stopped → t.afterCommand = t)

/-- A command that waits holds the block until the controller answers or the host kills the run
(60_exceptions R257, 20_memory R66): the step runs the command that made the request and no other. Of
the eight requests, which command makes each (42_link_config R152 to R172, 43_transfer R190), and what
a transfer's request holds (R190, R192). That the command is run again at each step, with a draw for
each try, is the model's choice (log 1), not the spec's. -/
def Obligations.WaitingCommandResumes : Prop :=
  (∀ (s : State) (r : CtrlReq), s.arrival = none → s.status.phase ≠ .stopped →
    s.waiting = some r → step s = finishCommand (exec (reqInstr r) s.advance)) ∧
  (∀ (path : String) (v : Word) (d : Desc),
    reqInstr (.openDev path) = .openDev ∧
    reqInstr (.write .mode v) = .wrmode ∧ reqInstr (.read .mode) = .rdmode ∧
    reqInstr (.write .bpw v) = .wrbpw ∧ reqInstr (.read .bpw) = .rdbpw ∧
    reqInstr (.write .speed v) = .wrspd ∧ reqInstr (.read .speed) = .rdspd ∧
    reqInstr (.xfer d) = .xfer) ∧
  (∀ (s t : State) (i : Instr) (r : CtrlReq), s.waiting = none → exec i s = .next t →
    t.waiting = some r → reqInstr r = i) ∧
  (∀ (c : LinkConfig) (w : Half), descOf c w =
    { tx := w, len := c.bpw.toNat / 8, delayUs := c.delay, speedHz := c.speed,
      bitsPerWord := c.bpw })

/-! ### Invariants every step keeps -/

/-- The handle is open exactly when PHASE = OPEN (10_state R36): every step keeps it. The spec marks
this sentence of R36 as derived. -/
def Obligations.HandleInvariantKept : Prop :=
  ∀ s t : State, HandleInv s → step s = .next t → HandleInv t

/-- TXW and every WIRE_LOG word have bit 12 = 1 and bits 1:0 = 0 (10_state R34, 30_encoding R83,
R98): every step keeps it, so the block never sends a shutdown command. The spec marks these
sentences as derived. -/
def Obligations.CommandWordInvariantKept : Prop :=
  ∀ s t : State, WordInv s → step s = .next t → WordInv t

/-- EXIT, ERR, KILLED and FAULTCLASS go with STOPPED (10_state R37, R39, R51): every step keeps
it. -/
def Obligations.StopInvariantKept : Prop :=
  ∀ s t : State, StopInv s → step s = .next t → StopInv t

/-- What the ST fields stand for (10_state R38, 42_link_config R184): every step keeps it. What the
controller is said to have accepted is the model's log 2. -/
def Obligations.VerificationInvariantKept : Prop :=
  ∀ s t : State, VerifyInv s → step s = .next t → VerifyInv t

/-- A command that waits has its precondition, and its request is of the present registers
(20_memory R66): every step keeps it. -/
def Obligations.WaitInvariantKept : Prop :=
  ∀ s t : State, WaitInv s → step s = .next t → WaitInv t

/-- The five invariants hold at reset. -/
def Obligations.InvariantsAtReset : Prop :=
  HandleInv State.reset ∧ WordInv State.reset ∧ StopInv State.reset ∧ VerifyInv State.reset ∧
    WaitInv State.reset

/-- Immutability (10_state R24): out of IDLE, no step but reset changes a CFG_* register, and none
but reset leads back to IDLE. -/
def Obligations.ConfigurationIsLocked : Prop :=
  ∀ s t : State, s.status.phase ≠ .idle → s.arrival ≠ some .reset → step s = .next t →
    t.cfg = s.cfg ∧ t.status.phase ≠ .idle

/-- WIRE_LOG is append-only (10_state R44): no step but reset removes or changes an entry, and a
step adds at most one, which carries the configuration of that moment. -/
def Obligations.WireLogIsAppendOnly : Prop :=
  ∀ s t : State, s.arrival ≠ some .reset → step s = .next t →
    t.wireLog = s.wireLog ∨ ∃ e : WireEntry, t.wireLog = s.wireLog ++ [e] ∧
      e.mode = s.cfg.mode ∧ e.bpw = s.cfg.bpw ∧ e.speed = s.cfg.speed ∧ e.delay = s.cfg.delay

/-- Verified configuration (42_link_config R184): in a state that meets the invariant of the
verification state, an XFER that adds an entry runs with the controller having accepted, and having
read back, each configured value. The spec marks R184 as derived. -/
def Obligations.TransferOnlyWhenVerified : Prop :=
  ∀ s t : State, VerifyInv s → exec .xfer s = .next t → t.wireLog ≠ s.wireLog →
    ∀ p, s.ctrl.wrote p = some (cfgParam s.cfg p) ∧ s.rb p = some (cfgParam s.cfg p)

/-! ### Views and host work (10_state, 45_host_sequences) -/

/-- The layout of STATUS (10_state R37): each field at its bits, the reserved bits 0; and the values of
PHASE (R36), of the ST fields (R37) and of ERR (60_exceptions R240). -/
def Obligations.StatusLayout : Prop :=
  (∀ u : Status, u.word.extractLsb' 0 2 = u.phase.code ∧
    u.word.extractLsb' 2 2 = u.modeSt.code ∧ u.word.extractLsb' 4 2 = u.bpwSt.code ∧
    u.word.extractLsb' 6 2 = u.spdSt.code ∧ u.word.getLsbD 8 = u.killed ∧
    u.word.getLsbD 9 = u.faultClass ∧ u.word.extractLsb' 10 6 = 0#6 ∧
    u.word.extractLsb' 16 8 = u.err.code ∧ u.word.extractLsb' 24 8 = 0#8) ∧
  [Phase.idle, .closed, .opened, .stopped].map (fun p => p.code.toNat) = [0, 1, 2, 3] ∧
  [VerState.none, .written, .verified].map (fun v => v.code.toNat) = [0, 1, 2] ∧
  [ErrCode.none, .cfgOpen, .cfgWrMode, .cfgRdMode, .cfgModeMismatch, .cfgWrBpw, .cfgRdBpw,
    .cfgBpwMismatch, .cfgWrSpeed, .cfgRdSpeed, .cfgSpeedMismatch, .xferShort, .usage, .convRange,
    .illegalCommand, .unwritten, .sequence, .unmodelledBpw].map (fun e => e.code.toNat) =
    [0, 1, 2, 3, 4, 5, 6, 7, 8, 9, 10, 11, 12, 13, 14, 15, 16, 17]

/-- What the read port shows of a register that may hold no value: its value, or that it has none
(10_state R50). -/
def Shows {n : Nat} (d : RdData) (o : Option (BitVec n)) : Prop :=
  (∀ v, o = some v → d = .word (v.setWidth 32)) ∧ (o = none → d = .noValue)

/-- ECHO (10_state R42): RXW[11:2], and ⊥ when RXW is ⊥. The read port (R50), for each of the fifteen
registers of R21: the register's value, the path as a string, no value for a register that holds none.
That a register of fewer than 32 bits is shown zero-extended, and WIRE_LOG whole in one read, are the
model's choices (log 19). No claim may rest on what a read of no value shows. -/
def Obligations.EchoIsFieldOfRxw : Prop :=
  ∀ s : State, (∀ w, s.rxw = some w → s.echo = some (w.extractLsb' 2 10)) ∧
    (s.rxw = none → s.echo = none) ∧
    s.readPort .cfgPath = .text s.cfg.path ∧
    s.readPort .cfgMode = .word (s.cfg.mode.setWidth 32) ∧
    s.readPort .cfgBpw = .word (s.cfg.bpw.setWidth 32) ∧
    s.readPort .cfgSpeed = .word s.cfg.speed ∧
    s.readPort .cfgDelay = .word (s.cfg.delay.setWidth 32) ∧
    Shows (s.readPort .rbMode) s.rbMode ∧ Shows (s.readPort .rbBpw) s.rbBpw ∧
    Shows (s.readPort .rbSpeed) s.rbSpeed ∧ Shows (s.readPort .dreg) s.dreg ∧
    Shows (s.readPort .txw) s.txw ∧ Shows (s.readPort .rxw) s.rxw ∧
    Shows (s.readPort .echo) s.echo ∧ s.readPort .status = .word s.status.word ∧
    Shows (s.readPort .exit) s.exit ∧ s.readPort .wireLog = .log s.wireLog

/-- The option mapping (45_host_sequences R228, R229), from a starting record and the options in
order: the effect of each of the twelve options, with every other field kept; a repeated flag is
idempotent wherever it stands; the last value of each valued option wins; an unknown option is a
usage error wherever it stands. The host starts from the reset defaults: it presents a program whose
first command is LDCFG of the record, or its usage error is what arrives at the next step. -/
def Obligations.OptionMapping : Prop :=
  (∀ (c : LinkConfig) (os : List CliOption),
    applyOptions c [] = some c ∧
    (∀ v, applyOptions c (.device v :: os) = applyOptions { c with path := v } os) ∧
    (∀ v, applyOptions c (.speed v :: os) = applyOptions { c with speed := v } os) ∧
    (∀ v, applyOptions c (.delay v :: os) = applyOptions { c with delay := v } os) ∧
    (∀ v, applyOptions c (.bpw v :: os) = applyOptions { c with bpw := v } os) ∧
    (∀ o mask, (o, mask) ∈ [(CliOption.loop, 0x20#8), (.cpha, 0x01#8), (.cpol, 0x02#8),
        (.lsb, 0x08#8), (.csHigh, 0x04#8), (.threeWire, 0x10#8), (.noCs, 0x40#8),
        (.ready, 0x80#8)] →
      applyOptions c (o :: os) = applyOptions { c with mode := c.mode ||| mask } os)) ∧
  (∀ (c : LinkConfig) (os : List CliOption) (o : CliOption),
    o ∈ [CliOption.loop, .cpha, .cpol, .lsb, .csHigh, .threeWire, .noCs, .ready] → o ∈ os →
    applyOptions c (os ++ [o]) = applyOptions c os) ∧
  (∀ (c c' : LinkConfig) (xs ys : List CliOption),
    (∀ v, applyOptions c (xs ++ .device v :: ys) = some c' → (∀ w, CliOption.device w ∉ ys) →
      c'.path = v) ∧
    (∀ v, applyOptions c (xs ++ .speed v :: ys) = some c' → (∀ w, CliOption.speed w ∉ ys) →
      c'.speed = v) ∧
    (∀ v, applyOptions c (xs ++ .delay v :: ys) = some c' → (∀ w, CliOption.delay w ∉ ys) →
      c'.delay = v) ∧
    (∀ v, applyOptions c (xs ++ .bpw v :: ys) = some c' → (∀ w, CliOption.bpw w ∉ ys) →
      c'.bpw = v)) ∧
  (∀ (c : LinkConfig) (os : List CliOption), applyOptions c os = none ↔ CliOption.unknown ∈ os) ∧
  (∀ (s : State) (os : List CliOption) (ch buf g2x : Bool) (variant : Variant) (v : VinSource),
    (∀ c, applyOptions defaultCfg os = some c →
      ∃ p cmds, (s.startHost os ch buf g2x variant v).host = some p ∧ p.hpc = 0 ∧
        p.cmds = { word := 0x10000000#32, cfgIn := some c, vin := .hold } :: cmds) ∧
    (applyOptions defaultCfg os = none →
      (s.startHost os ch buf g2x variant v).arrival = some .usageStop))
end

