-- ==== Sys2Proof/Laws/Bits.lean ====
section
/-!
SUPPORT. The bits of the words: each field of an assembled word is what it was assembled from, a
word is assembled from its own fields, and the Word Encoder is the assembly of a CW16 word.
-/

namespace Sys2Proof

/-! ### HC32 words (30_encoding R84) -/

@[simp] theorem opField_hc32Of (op : BitVec 4) (rsv : BitVec 12) (imm : Half) :
    opField (hc32Of op rsv imm) = op := by
  ext i hi
  simp only [opField, hc32Of, BitVec.getElem_extractLsb', BitVec.getLsbD_setWidth,
    BitVec.getLsbD_append]
  simp [show ¬ 28 + i < 16 by omega, show ¬ 28 + i - 16 < 12 by omega,
    show 28 + i - 16 - 12 = i by omega, show 28 + i < 32 by omega, BitVec.getLsbD_eq_getElem hi]

@[simp] theorem rsvField_hc32Of (op : BitVec 4) (rsv : BitVec 12) (imm : Half) :
    rsvField (hc32Of op rsv imm) = rsv := by
  ext i hi
  simp only [rsvField, hc32Of, BitVec.getElem_extractLsb', BitVec.getLsbD_setWidth,
    BitVec.getLsbD_append]
  simp [hi, show ¬ 16 + i < 16 by omega, show 16 + i - 16 = i by omega,
    show 16 + i < 32 by omega]

@[simp] theorem immField_hc32Of (op : BitVec 4) (rsv : BitVec 12) (imm : Half) :
    immField (hc32Of op rsv imm) = imm := by
  ext i hi
  simp only [immField, hc32Of, BitVec.getElem_extractLsb', BitVec.getLsbD_setWidth,
    BitVec.getLsbD_append]
  simp [hi, show i < 32 by omega]

@[simp] theorem opField_reservedOf (op : BitVec 4) (low : BitVec 28) :
    opField (reservedOf op low) = op := by
  ext i hi
  simp only [opField, reservedOf, BitVec.getElem_extractLsb', BitVec.getLsbD_setWidth,
    BitVec.getLsbD_append]
  simp [show ¬ 28 + i < 28 by omega, show 28 + i < 32 by omega, BitVec.getLsbD_eq_getElem hi]

@[simp] theorem lowField_reservedOf (op : BitVec 4) (low : BitVec 28) :
    lowField (reservedOf op low) = low := by
  ext i hi
  simp only [lowField, reservedOf, BitVec.getElem_extractLsb', BitVec.getLsbD_setWidth,
    BitVec.getLsbD_append]
  simp [hi, show i < 32 by omega]

/-- A word is assembled from its OP, RSV and IMM. -/
theorem hc32Of_fields (w : Word) : hc32Of (opField w) (rsvField w) (immField w) = w := by
  ext i hi
  rw [← BitVec.getLsbD_eq_getElem hi, ← BitVec.getLsbD_eq_getElem hi]
  simp only [hc32Of, opField, rsvField, immField, BitVec.getLsbD_setWidth, BitVec.getLsbD_append,
    BitVec.getLsbD_extractLsb']
  split
  · simp [*]
  · split
    · simp [*, show 16 + (i - 16) = i by omega]
    · simp [*, show 28 + (i - 16 - 12) = i by omega, show i - 16 - 12 < 4 by omega]

/-- A word is assembled from its OP and the 28 bits below. -/
theorem reservedOf_fields (w : Word) : reservedOf (opField w) (lowField w) = w := by
  ext i hi
  rw [← BitVec.getLsbD_eq_getElem hi, ← BitVec.getLsbD_eq_getElem hi]
  simp only [reservedOf, opField, lowField, BitVec.getLsbD_setWidth, BitVec.getLsbD_append,
    BitVec.getLsbD_extractLsb']
  split
  · simp [*]
  · simp [*, show 28 + (i - 28) = i by omega, show i - 28 < 4 by omega]

/-- An immediate with bits 15:3 = 0 is the ENC immediate of its three flags (R87). -/
theorem encImm_flags {m : Half} (h : m.extractLsb' 3 13 = 0#13) :
    encImm (m.getLsbD 2) (m.getLsbD 1) (m.getLsbD 0) = m := by
  have high : ∀ k, 3 ≤ k → m.getLsbD k = false := by
    intro k hk
    by_cases hk16 : k < 16
    · have hbit := congrArg (fun v => v.getLsbD (k - 3)) h
      simpa [show k - 3 < 13 by omega, show 3 + (k - 3) = k by omega] using hbit
    · exact BitVec.getLsbD_of_ge _ _ (by omega)
  ext i hi
  rw [← BitVec.getLsbD_eq_getElem hi, ← BitVec.getLsbD_eq_getElem hi]
  simp only [encImm, BitVec.getLsbD_setWidth, BitVec.getLsbD_append]
  match i with
  | 0 => simp
  | 1 => simp
  | 2 => simp
  | k + 3 => simp [high (k + 3) (by omega)]

/-! ### CW16 words (30_encoding R80) -/

@[simp] theorem data_cw16Of (ch buf gaN : Bool) (data : BitVec 10) :
    (cw16Of ch buf gaN data).extractLsb' 2 10 = data := by
  ext i hi
  simp only [cw16Of, BitVec.getElem_extractLsb', BitVec.getLsbD_setWidth, BitVec.getLsbD_append]
  simp [hi, show ¬ 2 + i < 2 by omega, show 2 + i - 2 = i by omega,
    show 2 + i < 16 by omega]

@[simp] theorem low_cw16Of (ch buf gaN : Bool) (data : BitVec 10) :
    (cw16Of ch buf gaN data).extractLsb' 0 2 = 0#2 := by
  ext i hi
  simp only [cw16Of, BitVec.getElem_extractLsb', BitVec.getLsbD_setWidth, BitVec.getLsbD_append]
  simp [hi]

@[simp] theorem act_cw16Of (ch buf gaN : Bool) (data : BitVec 10) :
    (cw16Of ch buf gaN data).getLsbD 12 = true := by
  simp only [cw16Of, BitVec.getLsbD_setWidth, BitVec.getLsbD_append]
  simp

@[simp] theorem gaN_cw16Of (ch buf gaN : Bool) (data : BitVec 10) :
    (cw16Of ch buf gaN data).getLsbD 13 = gaN := by
  simp only [cw16Of, BitVec.getLsbD_setWidth, BitVec.getLsbD_append]
  simp

@[simp] theorem buf_cw16Of (ch buf gaN : Bool) (data : BitVec 10) :
    (cw16Of ch buf gaN data).getLsbD 14 = buf := by
  simp only [cw16Of, BitVec.getLsbD_setWidth, BitVec.getLsbD_append]
  simp

@[simp] theorem ch_cw16Of (ch buf gaN : Bool) (data : BitVec 10) :
    (cw16Of ch buf gaN data).getLsbD 15 = ch := by
  simp only [cw16Of, BitVec.getLsbD_setWidth, BitVec.getLsbD_append]
  simp

/-- A word with bit 12 = 1 and bits 1:0 = 0 is assembled from its fields. -/
theorem cw16Of_fields {w : Half} (hact : w.getLsbD 12 = true) (hlow : w.extractLsb' 0 2 = 0#2) :
    cw16Of (w.getLsbD 15) (w.getLsbD 14) (w.getLsbD 13) (w.extractLsb' 2 10) = w := by
  have h0 := congrArg (fun v => v.getLsbD 0) hlow
  have h1 := congrArg (fun v => v.getLsbD 1) hlow
  simp at h0 h1
  ext i hi
  rw [← BitVec.getLsbD_eq_getElem hi, ← BitVec.getLsbD_eq_getElem hi]
  simp only [cw16Of, BitVec.getLsbD_setWidth, BitVec.getLsbD_append, BitVec.getLsbD_extractLsb']
  interval_cases i <;> simp_all

namespace Machine

/-- The Word Encoder assembles a CW16 word (40_encoder R112, 30_encoding R80). -/
theorem encWord_eq_cw16Of (ch buf g2x : Bool) (data : Half) :
    encWord ch buf g2x data = cw16Of ch buf (!g2x) (data.extractLsb' 0 10) := by
  ext i hi
  rw [← BitVec.getLsbD_eq_getElem hi, ← BitVec.getLsbD_eq_getElem hi]
  simp only [encWord, cw16Of, BitVec.getLsbD_setWidth, BitVec.getLsbD_append,
    BitVec.getLsbD_extractLsb', BitVec.getLsbD_or, BitVec.getLsbD_shiftLeft, BitVec.getLsbD_and,
    BitVec.getLsbD_ofBool]
  interval_cases i <;> simp

end Machine
end Sys2Proof
end

