-- ==== Sys2Proof/Laws/Float64.lean ====
section
/-!
SUPPORT. The binary64 operations against exact rational arithmetic: what the parts of the rounding
compute, and that a value which needs no rounding is left alone.
-/

namespace Sys2Proof
namespace Machine

/-- Truncating the magnitude is the floor of its rational value. -/
theorem truncMag_eq_floor (m : Nat) (e : Int) : truncMag m e = ⌊(m : ℚ) * (2 : ℚ) ^ e⌋₊ := by
  unfold truncMag
  obtain ⟨k, rfl | rfl⟩ := Int.eq_nat_or_neg e
  · simp only [Int.toNat_natCast, Nat.shiftLeft_eq, zpow_natCast]
    rw [show (-(k : Int)).toNat = 0 by omega, Nat.shiftRight_zero]
    exact_mod_cast (Nat.floor_natCast (R := ℚ) (m * 2 ^ k)).symm
  · simp only [neg_neg, Int.toNat_natCast]
    rw [show (-(k : Int)).toNat = 0 by omega, Nat.shiftLeft_zero, Nat.shiftRight_eq_div_pow,
      zpow_neg, zpow_natCast, ← div_eq_mul_inv, ← Nat.floor_div_eq_div (K := ℚ)]
    push_cast
    rfl

theorem shiftLeft_toNat (n : Nat) (k : Int) :
    ((n <<< k.toNat : Nat) : ℚ) = n * (2 : ℚ) ^ (max k 0) := by
  rw [Nat.shiftLeft_eq]
  push_cast
  congr 1
  rw [← zpow_natCast]
  congr 1
  omega

/-- Shifting numerator or denominator by a power of either sign scales the ratio. -/
theorem shiftLeft_ratio (n d : Nat) (k : Int) :
    ((n <<< k.toNat : Nat) : ℚ) / ((d <<< (-k).toNat : Nat) : ℚ) = (n : ℚ) / d * (2 : ℚ) ^ k := by
  rw [shiftLeft_toNat, shiftLeft_toNat, mul_div_mul_comm, ← zpow_sub₀ (by norm_num)]
  congr 2
  omega

theorem scaledGe_iff {n d : Nat} (hd : 0 < d) (k : Int) :
    scaledGe n d k = true ↔ (1 : ℚ) ≤ (n : ℚ) / d * (2 : ℚ) ^ k := by
  have hpos : (0 : ℚ) < ((d <<< (-k).toNat : Nat) : ℚ) := by
    rw [Nat.shiftLeft_eq]
    positivity
  rw [scaledGe, decide_eq_true_iff, ← shiftLeft_ratio, le_div_iff₀ hpos, one_mul]
  exact_mod_cast Iff.rfl

theorem two_zpow_log2_le {n : Nat} (hn : 0 < n) : (2 : ℚ) ^ (n.log2 : Int) ≤ n := by
  rw [zpow_natCast]
  exact_mod_cast Nat.log2_self_le hn.ne'

theorem lt_two_zpow_log2 (n : Nat) : (n : ℚ) < (2 : ℚ) ^ ((n.log2 : Int) + 1) := by
  have h : n < 2 ^ (n.log2 + 1) := Nat.lt_log2_self
  rw [← Nat.cast_succ, zpow_natCast]
  exact_mod_cast h

/-- `ratioLog` is the exponent of the leading bit. -/
theorem ratioLog_spec {n d : Nat} (hn : 0 < n) (hd : 0 < d) :
    (2 : ℚ) ^ ratioLog n d ≤ (n : ℚ) / d ∧ (n : ℚ) / d < (2 : ℚ) ^ (ratioLog n d + 1) := by
  have hdq : (0 : ℚ) < d := by exact_mod_cast hd
  have hup : (n : ℚ) / d < (2 : ℚ) ^ ((n.log2 : Int) - d.log2 + 1) := by
    rw [div_lt_iff₀ hdq]
    calc (n : ℚ) < (2 : ℚ) ^ ((n.log2 : Int) + 1) := lt_two_zpow_log2 n
      _ = (2 : ℚ) ^ ((n.log2 : Int) - d.log2 + 1) * (2 : ℚ) ^ (d.log2 : Int) := by
        rw [← zpow_add₀ (by norm_num)]
        congr 1
        ring
      _ ≤ _ := by
        have := two_zpow_log2_le hd
        gcongr
  have hlo : (2 : ℚ) ^ ((n.log2 : Int) - d.log2 - 1) ≤ (n : ℚ) / d := by
    rw [le_div_iff₀ hdq]
    calc (2 : ℚ) ^ ((n.log2 : Int) - d.log2 - 1) * d
        ≤ (2 : ℚ) ^ ((n.log2 : Int) - d.log2 - 1) * (2 : ℚ) ^ ((d.log2 : Int) + 1) := by
          have := lt_two_zpow_log2 d
          gcongr
      _ = (2 : ℚ) ^ (n.log2 : Int) := by
        rw [← zpow_add₀ (by norm_num)]
        congr 1
        ring
      _ ≤ n := two_zpow_log2_le hn
  have hpos : (0 : ℚ) < (2 : ℚ) ^ ((n.log2 : Int) - d.log2) := by positivity
  unfold ratioLog
  dsimp only
  split <;> rename_i h <;>
    rw [scaledGe_iff hd, zpow_neg, ← div_eq_mul_inv, le_div_iff₀ hpos, one_mul] at h
  · exact ⟨h, hup⟩
  · exact ⟨hlo, by simpa using h⟩

/-- `nearestEven` is within a half, and even at exactly a half. -/
theorem nearestEven_spec (a b : Nat) (hb : 0 < b) :
    |(a : ℚ) / b - nearestEven a b| ≤ 1 / 2 ∧
      (|(a : ℚ) / b - nearestEven a b| = 1 / 2 → nearestEven a b % 2 = 0) := by
  have hbq : (0 : ℚ) < b := by exact_mod_cast hb
  have hr : a % b < b := Nat.mod_lt _ hb
  have hx : (a : ℚ) / b = (a / b : Nat) + (a % b : Nat) / (b : ℚ) := by
    have hdm : (a : ℚ) = b * (a / b : Nat) + (a % b : Nat) := by
      exact_mod_cast (Nat.div_add_mod a b).symm
    rw [div_eq_iff hbq.ne', add_mul, div_mul_cancel₀ _ hbq.ne']
    linarith
  rw [hx]
  unfold nearestEven
  dsimp only
  generalize a / b = q at *
  generalize a % b = r at *
  have hrq : (r : ℚ) < b := by exact_mod_cast hr
  have hf0 : 0 ≤ (r : ℚ) / b := by positivity
  have hf1 : (r : ℚ) / b < 1 := (div_lt_one hbq).mpr hrq
  split <;> rename_i h
  · have hhalf : (1 : ℚ) / 2 ≤ (r : ℚ) / b := by
      have hle : (b : ℚ) ≤ 2 * r := by exact_mod_cast (by omega : b ≤ 2 * r)
      rw [div_le_div_iff₀ (by norm_num) hbq]
      linarith
    push_cast
    rw [show (q : ℚ) + r / b - (q + 1) = -(1 - r / b) by ring, abs_neg,
      abs_of_pos (by linarith)]
    refine ⟨by linarith, fun htie => ?_⟩
    have hr2 : (r : ℚ) / b = 1 / 2 := by linarith
    rw [div_eq_div_iff hbq.ne' (by norm_num)] at hr2
    have : r * 2 = b := by exact_mod_cast (by linarith : (r : ℚ) * 2 = b)
    omega
  · have hhalf : (r : ℚ) / b ≤ 1 / 2 := by
      have hle : 2 * (r : ℚ) ≤ b := by exact_mod_cast (by omega : 2 * r ≤ b)
      rw [div_le_div_iff₀ hbq (by norm_num)]
      linarith
    rw [add_sub_cancel_left, abs_of_nonneg hf0]
    refine ⟨hhalf, fun htie => ?_⟩
    rw [div_eq_div_iff hbq.ne' (by norm_num)] at htie
    have : r * 2 = b := by exact_mod_cast (by linarith : (r : ℚ) * 2 = b)
    omega

theorem f64Of1024_eq : f64Of1024 = .fin false 4503599627370496 (-42) := by decide

/-- The range of the fields a finite number is read with. -/
theorem f64OfBits_range {b : F64Bits} {neg : Bool} {m : Nat} {e : Int}
    (h : f64OfBits b = .fin neg m e) : m < 2 ^ 53 ∧ -1074 ≤ e ∧ e ≤ 971 := by
  have hfr := (b.extractLsb' 0 52).isLt
  have hex := (b.extractLsb' 52 11).isLt
  unfold f64OfBits at h
  dsimp only at h
  split at h
  · split at h <;> cases h
  · split at h <;> cases h <;> omega

end Machine
end Sys2Proof
end

