-- ==== Sys2Proof/Laws/State.lean ====
section
/-!
SUPPORT. What each operation over the state leaves in each field: one lemma per field per
operation, so that no later proof unfolds a record update.
-/

namespace Sys2Proof
namespace Machine

/-! ### Draws -/

@[simp] theorem tick_cfg (s : State) :
    s.tick.cfg = s.cfg := rfl

@[simp] theorem tick_rbMode (s : State) :
    s.tick.rbMode = s.rbMode := rfl

@[simp] theorem tick_rbBpw (s : State) :
    s.tick.rbBpw = s.rbBpw := rfl

@[simp] theorem tick_rbSpeed (s : State) :
    s.tick.rbSpeed = s.rbSpeed := rfl

@[simp] theorem tick_dreg (s : State) :
    s.tick.dreg = s.dreg := rfl

@[simp] theorem tick_txw (s : State) :
    s.tick.txw = s.txw := rfl

@[simp] theorem tick_rxw (s : State) :
    s.tick.rxw = s.rxw := rfl

@[simp] theorem tick_status (s : State) :
    s.tick.status = s.status := rfl

@[simp] theorem tick_exit (s : State) :
    s.tick.exit = s.exit := rfl

@[simp] theorem tick_wireLog (s : State) :
    s.tick.wireLog = s.wireLog := rfl

@[simp] theorem tick_cfgIn (s : State) :
    s.tick.cfgIn = s.cfgIn := rfl

@[simp] theorem tick_vin (s : State) :
    s.tick.vin = s.vin := rfl

@[simp] theorem tick_vref (s : State) :
    s.tick.vref = s.vref := rfl

@[simp] theorem tick_waiting (s : State) :
    s.tick.waiting = s.waiting := rfl

@[simp] theorem tick_ctrl (s : State) :
    s.tick.ctrl = s.ctrl := rfl

@[simp] theorem tick_dacWord (s : State) :
    s.tick.dacWord = s.dacWord := rfl

@[simp] theorem tick_host (s : State) :
    s.tick.host = s.host := rfl

@[simp] theorem tick_inbox (s : State) :
    s.tick.inbox = s.inbox := rfl

@[simp] theorem tick_eventCount (s : State) :
    s.tick.eventCount = s.eventCount := rfl

@[simp] theorem tick_hostReads (s : State) :
    s.tick.hostReads = s.hostReads := rfl

@[simp] theorem tick_draws (s : State) :
    s.tick.draws = s.draws.tail := rfl

@[simp] theorem tick_drawCount (s : State) :
    s.tick.drawCount = s.drawCount + 1 := rfl

/-! ### What arrives -/

@[simp] theorem advance_cfg (s : State) :
    s.advance.cfg = s.cfg := rfl

@[simp] theorem advance_rbMode (s : State) :
    s.advance.rbMode = s.rbMode := rfl

@[simp] theorem advance_rbBpw (s : State) :
    s.advance.rbBpw = s.rbBpw := rfl

@[simp] theorem advance_rbSpeed (s : State) :
    s.advance.rbSpeed = s.rbSpeed := rfl

@[simp] theorem advance_dreg (s : State) :
    s.advance.dreg = s.dreg := rfl

@[simp] theorem advance_txw (s : State) :
    s.advance.txw = s.txw := rfl

@[simp] theorem advance_rxw (s : State) :
    s.advance.rxw = s.rxw := rfl

@[simp] theorem advance_status (s : State) :
    s.advance.status = s.status := rfl

@[simp] theorem advance_exit (s : State) :
    s.advance.exit = s.exit := rfl

@[simp] theorem advance_wireLog (s : State) :
    s.advance.wireLog = s.wireLog := rfl

@[simp] theorem advance_cfgIn (s : State) :
    s.advance.cfgIn = s.cfgIn := rfl

@[simp] theorem advance_vin (s : State) :
    s.advance.vin = s.vin := rfl

@[simp] theorem advance_vref (s : State) :
    s.advance.vref = s.vref := rfl

@[simp] theorem advance_waiting (s : State) :
    s.advance.waiting = s.waiting := rfl

@[simp] theorem advance_ctrl (s : State) :
    s.advance.ctrl = s.ctrl := rfl

@[simp] theorem advance_dacWord (s : State) :
    s.advance.dacWord = s.dacWord := rfl

@[simp] theorem advance_host (s : State) :
    s.advance.host = s.host := rfl

@[simp] theorem advance_inbox (s : State) :
    s.advance.inbox = s.inbox.tail := rfl

@[simp] theorem advance_eventCount (s : State) :
    s.advance.eventCount = s.eventCount + 1 := rfl

@[simp] theorem advance_hostReads (s : State) :
    s.advance.hostReads = s.hostReads := rfl

@[simp] theorem advance_draws (s : State) :
    s.advance.draws = s.draws := rfl

@[simp] theorem advance_drawCount (s : State) :
    s.advance.drawCount = s.drawCount := rfl

theorem advance_arrivalAt (s : State) (k : Nat) :
    s.advance.arrivalAt k = s.arrivalAt (k + 1) := by
  simp [State.arrivalAt, State.advance, Nat.add_comm, Nat.add_left_comm]

/-! ### The DAC's word, the controller's settings, the host's reads -/

@[simp] theorem latch_cfg (s : State) (w : Half) :
    (s.latch w).cfg = s.cfg := rfl

@[simp] theorem latch_rbMode (s : State) (w : Half) :
    (s.latch w).rbMode = s.rbMode := rfl

@[simp] theorem latch_rbBpw (s : State) (w : Half) :
    (s.latch w).rbBpw = s.rbBpw := rfl

@[simp] theorem latch_rbSpeed (s : State) (w : Half) :
    (s.latch w).rbSpeed = s.rbSpeed := rfl

@[simp] theorem latch_dreg (s : State) (w : Half) :
    (s.latch w).dreg = s.dreg := rfl

@[simp] theorem latch_txw (s : State) (w : Half) :
    (s.latch w).txw = s.txw := rfl

@[simp] theorem latch_rxw (s : State) (w : Half) :
    (s.latch w).rxw = s.rxw := rfl

@[simp] theorem latch_status (s : State) (w : Half) :
    (s.latch w).status = s.status := rfl

@[simp] theorem latch_exit (s : State) (w : Half) :
    (s.latch w).exit = s.exit := rfl

@[simp] theorem latch_wireLog (s : State) (w : Half) :
    (s.latch w).wireLog = s.wireLog := rfl

@[simp] theorem latch_cfgIn (s : State) (w : Half) :
    (s.latch w).cfgIn = s.cfgIn := rfl

@[simp] theorem latch_vin (s : State) (w : Half) :
    (s.latch w).vin = s.vin := rfl

@[simp] theorem latch_vref (s : State) (w : Half) :
    (s.latch w).vref = s.vref := rfl

@[simp] theorem latch_waiting (s : State) (w : Half) :
    (s.latch w).waiting = s.waiting := rfl

@[simp] theorem latch_ctrl (s : State) (w : Half) :
    (s.latch w).ctrl = s.ctrl := rfl

@[simp] theorem latch_dacWord (s : State) (w : Half) :
    (s.latch w).dacWord = w := rfl

@[simp] theorem latch_host (s : State) (w : Half) :
    (s.latch w).host = s.host := rfl

@[simp] theorem latch_inbox (s : State) (w : Half) :
    (s.latch w).inbox = s.inbox := rfl

@[simp] theorem latch_eventCount (s : State) (w : Half) :
    (s.latch w).eventCount = s.eventCount := rfl

@[simp] theorem latch_hostReads (s : State) (w : Half) :
    (s.latch w).hostReads = s.hostReads := rfl

@[simp] theorem latch_draws (s : State) (w : Half) :
    (s.latch w).draws = s.draws := rfl

@[simp] theorem latch_drawCount (s : State) (w : Half) :
    (s.latch w).drawCount = s.drawCount := rfl

@[simp] theorem settle_cfg (s : State) (a : Draw) :
    (s.settle a).cfg = s.cfg := rfl

@[simp] theorem settle_rbMode (s : State) (a : Draw) :
    (s.settle a).rbMode = s.rbMode := rfl

@[simp] theorem settle_rbBpw (s : State) (a : Draw) :
    (s.settle a).rbBpw = s.rbBpw := rfl

@[simp] theorem settle_rbSpeed (s : State) (a : Draw) :
    (s.settle a).rbSpeed = s.rbSpeed := rfl

@[simp] theorem settle_dreg (s : State) (a : Draw) :
    (s.settle a).dreg = s.dreg := rfl

@[simp] theorem settle_txw (s : State) (a : Draw) :
    (s.settle a).txw = s.txw := rfl

@[simp] theorem settle_rxw (s : State) (a : Draw) :
    (s.settle a).rxw = s.rxw := rfl

@[simp] theorem settle_status (s : State) (a : Draw) :
    (s.settle a).status = s.status := rfl

@[simp] theorem settle_exit (s : State) (a : Draw) :
    (s.settle a).exit = s.exit := rfl

@[simp] theorem settle_wireLog (s : State) (a : Draw) :
    (s.settle a).wireLog = s.wireLog := rfl

@[simp] theorem settle_cfgIn (s : State) (a : Draw) :
    (s.settle a).cfgIn = s.cfgIn := rfl

@[simp] theorem settle_vin (s : State) (a : Draw) :
    (s.settle a).vin = s.vin := rfl

@[simp] theorem settle_vref (s : State) (a : Draw) :
    (s.settle a).vref = s.vref := rfl

@[simp] theorem settle_waiting (s : State) (a : Draw) :
    (s.settle a).waiting = s.waiting := rfl

@[simp] theorem settle_ctrl (s : State) (a : Draw) :
    (s.settle a).ctrl = s.ctrl.settle a := rfl

@[simp] theorem settle_dacWord (s : State) (a : Draw) :
    (s.settle a).dacWord = s.dacWord := rfl

@[simp] theorem settle_host (s : State) (a : Draw) :
    (s.settle a).host = s.host := rfl

@[simp] theorem settle_inbox (s : State) (a : Draw) :
    (s.settle a).inbox = s.inbox := rfl

@[simp] theorem settle_eventCount (s : State) (a : Draw) :
    (s.settle a).eventCount = s.eventCount := rfl

@[simp] theorem settle_hostReads (s : State) (a : Draw) :
    (s.settle a).hostReads = s.hostReads := rfl

@[simp] theorem settle_draws (s : State) (a : Draw) :
    (s.settle a).draws = s.draws := rfl

@[simp] theorem settle_drawCount (s : State) (a : Draw) :
    (s.settle a).drawCount = s.drawCount := rfl

@[simp] theorem cutCtrl_cfg (s : State) (r : CtrlReq) :
    (s.cutCtrl r).cfg = s.cfg := rfl

@[simp] theorem cutCtrl_rbMode (s : State) (r : CtrlReq) :
    (s.cutCtrl r).rbMode = s.rbMode := rfl

@[simp] theorem cutCtrl_rbBpw (s : State) (r : CtrlReq) :
    (s.cutCtrl r).rbBpw = s.rbBpw := rfl

@[simp] theorem cutCtrl_rbSpeed (s : State) (r : CtrlReq) :
    (s.cutCtrl r).rbSpeed = s.rbSpeed := rfl

@[simp] theorem cutCtrl_dreg (s : State) (r : CtrlReq) :
    (s.cutCtrl r).dreg = s.dreg := rfl

@[simp] theorem cutCtrl_txw (s : State) (r : CtrlReq) :
    (s.cutCtrl r).txw = s.txw := rfl

@[simp] theorem cutCtrl_rxw (s : State) (r : CtrlReq) :
    (s.cutCtrl r).rxw = s.rxw := rfl

@[simp] theorem cutCtrl_status (s : State) (r : CtrlReq) :
    (s.cutCtrl r).status = s.status := rfl

@[simp] theorem cutCtrl_exit (s : State) (r : CtrlReq) :
    (s.cutCtrl r).exit = s.exit := rfl

@[simp] theorem cutCtrl_wireLog (s : State) (r : CtrlReq) :
    (s.cutCtrl r).wireLog = s.wireLog := rfl

@[simp] theorem cutCtrl_cfgIn (s : State) (r : CtrlReq) :
    (s.cutCtrl r).cfgIn = s.cfgIn := rfl

@[simp] theorem cutCtrl_vin (s : State) (r : CtrlReq) :
    (s.cutCtrl r).vin = s.vin := rfl

@[simp] theorem cutCtrl_vref (s : State) (r : CtrlReq) :
    (s.cutCtrl r).vref = s.vref := rfl

@[simp] theorem cutCtrl_waiting (s : State) (r : CtrlReq) :
    (s.cutCtrl r).waiting = s.waiting := rfl

@[simp] theorem cutCtrl_ctrl (s : State) (r : CtrlReq) :
    (s.cutCtrl r).ctrl = s.ctrl.forget.settle (s.peek (.cutOff r)) := rfl

@[simp] theorem cutCtrl_dacWord (s : State) (r : CtrlReq) :
    (s.cutCtrl r).dacWord = s.dacWord := rfl

@[simp] theorem cutCtrl_host (s : State) (r : CtrlReq) :
    (s.cutCtrl r).host = s.host := rfl

@[simp] theorem cutCtrl_inbox (s : State) (r : CtrlReq) :
    (s.cutCtrl r).inbox = s.inbox := rfl

@[simp] theorem cutCtrl_eventCount (s : State) (r : CtrlReq) :
    (s.cutCtrl r).eventCount = s.eventCount := rfl

@[simp] theorem cutCtrl_hostReads (s : State) (r : CtrlReq) :
    (s.cutCtrl r).hostReads = s.hostReads := rfl

@[simp] theorem cutCtrl_draws (s : State) (r : CtrlReq) :
    (s.cutCtrl r).draws = s.draws.tail := rfl

@[simp] theorem cutCtrl_drawCount (s : State) (r : CtrlReq) :
    (s.cutCtrl r).drawCount = s.drawCount + 1 := rfl

@[simp] theorem hostRead_cfg (s : State) (l : List RegSel) :
    (s.hostRead l).cfg = s.cfg := rfl

@[simp] theorem hostRead_rbMode (s : State) (l : List RegSel) :
    (s.hostRead l).rbMode = s.rbMode := rfl

@[simp] theorem hostRead_rbBpw (s : State) (l : List RegSel) :
    (s.hostRead l).rbBpw = s.rbBpw := rfl

@[simp] theorem hostRead_rbSpeed (s : State) (l : List RegSel) :
    (s.hostRead l).rbSpeed = s.rbSpeed := rfl

@[simp] theorem hostRead_dreg (s : State) (l : List RegSel) :
    (s.hostRead l).dreg = s.dreg := rfl

@[simp] theorem hostRead_txw (s : State) (l : List RegSel) :
    (s.hostRead l).txw = s.txw := rfl

@[simp] theorem hostRead_rxw (s : State) (l : List RegSel) :
    (s.hostRead l).rxw = s.rxw := rfl

@[simp] theorem hostRead_status (s : State) (l : List RegSel) :
    (s.hostRead l).status = s.status := rfl

@[simp] theorem hostRead_exit (s : State) (l : List RegSel) :
    (s.hostRead l).exit = s.exit := rfl

@[simp] theorem hostRead_wireLog (s : State) (l : List RegSel) :
    (s.hostRead l).wireLog = s.wireLog := rfl

@[simp] theorem hostRead_cfgIn (s : State) (l : List RegSel) :
    (s.hostRead l).cfgIn = s.cfgIn := rfl

@[simp] theorem hostRead_vin (s : State) (l : List RegSel) :
    (s.hostRead l).vin = s.vin := rfl

@[simp] theorem hostRead_vref (s : State) (l : List RegSel) :
    (s.hostRead l).vref = s.vref := rfl

@[simp] theorem hostRead_waiting (s : State) (l : List RegSel) :
    (s.hostRead l).waiting = s.waiting := rfl

@[simp] theorem hostRead_ctrl (s : State) (l : List RegSel) :
    (s.hostRead l).ctrl = s.ctrl := rfl

@[simp] theorem hostRead_dacWord (s : State) (l : List RegSel) :
    (s.hostRead l).dacWord = s.dacWord := rfl

@[simp] theorem hostRead_host (s : State) (l : List RegSel) :
    (s.hostRead l).host = s.host := rfl

@[simp] theorem hostRead_inbox (s : State) (l : List RegSel) :
    (s.hostRead l).inbox = s.inbox := rfl

@[simp] theorem hostRead_eventCount (s : State) (l : List RegSel) :
    (s.hostRead l).eventCount = s.eventCount := rfl

@[simp] theorem hostRead_hostReads (s : State) (l : List RegSel) :
    (s.hostRead l).hostReads = s.hostReads ++ l.map (fun r => (r, s.readPort r)) := rfl

@[simp] theorem hostRead_draws (s : State) (l : List RegSel) :
    (s.hostRead l).draws = s.draws := rfl

@[simp] theorem hostRead_drawCount (s : State) (l : List RegSel) :
    (s.hostRead l).drawCount = s.drawCount := rfl

@[simp] theorem cutOpen_cfg (s : State) :
    s.cutOpen.cfg = s.cfg := by
  unfold State.cutOpen; split <;> rfl

@[simp] theorem cutOpen_rbMode (s : State) :
    s.cutOpen.rbMode = s.rbMode := by
  unfold State.cutOpen; split <;> rfl

@[simp] theorem cutOpen_rbBpw (s : State) :
    s.cutOpen.rbBpw = s.rbBpw := by
  unfold State.cutOpen; split <;> rfl

@[simp] theorem cutOpen_rbSpeed (s : State) :
    s.cutOpen.rbSpeed = s.rbSpeed := by
  unfold State.cutOpen; split <;> rfl

@[simp] theorem cutOpen_dreg (s : State) :
    s.cutOpen.dreg = s.dreg := by
  unfold State.cutOpen; split <;> rfl

@[simp] theorem cutOpen_txw (s : State) :
    s.cutOpen.txw = s.txw := by
  unfold State.cutOpen; split <;> rfl

@[simp] theorem cutOpen_rxw (s : State) :
    s.cutOpen.rxw = s.rxw := by
  unfold State.cutOpen; split <;> rfl

@[simp] theorem cutOpen_status (s : State) :
    s.cutOpen.status = s.status := by
  unfold State.cutOpen; split <;> rfl

@[simp] theorem cutOpen_exit (s : State) :
    s.cutOpen.exit = s.exit := by
  unfold State.cutOpen; split <;> rfl

@[simp] theorem cutOpen_wireLog (s : State) :
    s.cutOpen.wireLog = s.wireLog := by
  unfold State.cutOpen; split <;> rfl

@[simp] theorem cutOpen_cfgIn (s : State) :
    s.cutOpen.cfgIn = s.cfgIn := by
  unfold State.cutOpen; split <;> rfl

@[simp] theorem cutOpen_vin (s : State) :
    s.cutOpen.vin = s.vin := by
  unfold State.cutOpen; split <;> rfl

@[simp] theorem cutOpen_vref (s : State) :
    s.cutOpen.vref = s.vref := by
  unfold State.cutOpen; split <;> rfl

@[simp] theorem cutOpen_waiting (s : State) :
    s.cutOpen.waiting = s.waiting := by
  unfold State.cutOpen; split <;> rfl

@[simp] theorem cutOpen_dacWord (s : State) :
    s.cutOpen.dacWord = s.dacWord := by
  unfold State.cutOpen; split <;> rfl

@[simp] theorem cutOpen_host (s : State) :
    s.cutOpen.host = s.host := by
  unfold State.cutOpen; split <;> rfl

@[simp] theorem cutOpen_inbox (s : State) :
    s.cutOpen.inbox = s.inbox := by
  unfold State.cutOpen; split <;> rfl

@[simp] theorem cutOpen_eventCount (s : State) :
    s.cutOpen.eventCount = s.eventCount := by
  unfold State.cutOpen; split <;> rfl

@[simp] theorem cutOpen_hostReads (s : State) :
    s.cutOpen.hostReads = s.hostReads := by
  unfold State.cutOpen; split <;> rfl

@[simp] theorem settle_held (c : Ctrl) (a : Draw) : (c.settle a).held = c.held := rfl

@[simp] theorem settle_wrote (c : Ctrl) (a : Draw) (p : Param) :
    (c.settle a).wrote p = c.wrote p := by
  cases p <;> rfl

@[simp] theorem forget_held (c : Ctrl) : c.forget.held = c.held := rfl

@[simp] theorem accept_held (c : Ctrl) (p : Param) (v : Word) :
    (c.accept p v).held = c.held := by
  cases p <;> rfl

@[simp] theorem cutOpen_held (s : State) : s.cutOpen.ctrl.held = s.ctrl.held := by
  unfold State.cutOpen; split <;> rfl

/-! ### Releasing the handle, errors, the normal end -/

@[simp] theorem releaseIfOpen_cfg (s : State) :
    s.releaseIfOpen.cfg = s.cfg := by
  unfold State.releaseIfOpen; split <;> rfl

@[simp] theorem releaseIfOpen_rbMode (s : State) :
    s.releaseIfOpen.rbMode = s.rbMode := by
  unfold State.releaseIfOpen; split <;> rfl

@[simp] theorem releaseIfOpen_rbBpw (s : State) :
    s.releaseIfOpen.rbBpw = s.rbBpw := by
  unfold State.releaseIfOpen; split <;> rfl

@[simp] theorem releaseIfOpen_rbSpeed (s : State) :
    s.releaseIfOpen.rbSpeed = s.rbSpeed := by
  unfold State.releaseIfOpen; split <;> rfl

@[simp] theorem releaseIfOpen_dreg (s : State) :
    s.releaseIfOpen.dreg = s.dreg := by
  unfold State.releaseIfOpen; split <;> rfl

@[simp] theorem releaseIfOpen_txw (s : State) :
    s.releaseIfOpen.txw = s.txw := by
  unfold State.releaseIfOpen; split <;> rfl

@[simp] theorem releaseIfOpen_rxw (s : State) :
    s.releaseIfOpen.rxw = s.rxw := by
  unfold State.releaseIfOpen; split <;> rfl

@[simp] theorem releaseIfOpen_status (s : State) :
    s.releaseIfOpen.status = s.status := by
  unfold State.releaseIfOpen; split <;> rfl

@[simp] theorem releaseIfOpen_exit (s : State) :
    s.releaseIfOpen.exit = s.exit := by
  unfold State.releaseIfOpen; split <;> rfl

@[simp] theorem releaseIfOpen_wireLog (s : State) :
    s.releaseIfOpen.wireLog = s.wireLog := by
  unfold State.releaseIfOpen; split <;> rfl

@[simp] theorem releaseIfOpen_cfgIn (s : State) :
    s.releaseIfOpen.cfgIn = s.cfgIn := by
  unfold State.releaseIfOpen; split <;> rfl

@[simp] theorem releaseIfOpen_vin (s : State) :
    s.releaseIfOpen.vin = s.vin := by
  unfold State.releaseIfOpen; split <;> rfl

@[simp] theorem releaseIfOpen_vref (s : State) :
    s.releaseIfOpen.vref = s.vref := by
  unfold State.releaseIfOpen; split <;> rfl

@[simp] theorem releaseIfOpen_waiting (s : State) :
    s.releaseIfOpen.waiting = s.waiting := by
  unfold State.releaseIfOpen; split <;> rfl

@[simp] theorem releaseIfOpen_dacWord (s : State) :
    s.releaseIfOpen.dacWord = s.dacWord := by
  unfold State.releaseIfOpen; split <;> rfl

@[simp] theorem releaseIfOpen_host (s : State) :
    s.releaseIfOpen.host = s.host := by
  unfold State.releaseIfOpen; split <;> rfl

@[simp] theorem releaseIfOpen_inbox (s : State) :
    s.releaseIfOpen.inbox = s.inbox := by
  unfold State.releaseIfOpen; split <;> rfl

@[simp] theorem releaseIfOpen_eventCount (s : State) :
    s.releaseIfOpen.eventCount = s.eventCount := by
  unfold State.releaseIfOpen; split <;> rfl

@[simp] theorem releaseIfOpen_hostReads (s : State) :
    s.releaseIfOpen.hostReads = s.hostReads := by
  unfold State.releaseIfOpen; split <;> rfl

@[simp] theorem releaseIfOpen_draws (s : State) :
    s.releaseIfOpen.draws = s.draws := by
  unfold State.releaseIfOpen; split <;> rfl

@[simp] theorem releaseIfOpen_drawCount (s : State) :
    s.releaseIfOpen.drawCount = s.drawCount := by
  unfold State.releaseIfOpen; split <;> rfl

@[simp] theorem raise_cfg (s : State) (e : ErrCode) :
    (s.raise e).cfg = s.cfg := releaseIfOpen_cfg s

@[simp] theorem raise_rbMode (s : State) (e : ErrCode) :
    (s.raise e).rbMode = s.rbMode := releaseIfOpen_rbMode s

@[simp] theorem raise_rbBpw (s : State) (e : ErrCode) :
    (s.raise e).rbBpw = s.rbBpw := releaseIfOpen_rbBpw s

@[simp] theorem raise_rbSpeed (s : State) (e : ErrCode) :
    (s.raise e).rbSpeed = s.rbSpeed := releaseIfOpen_rbSpeed s

@[simp] theorem raise_dreg (s : State) (e : ErrCode) :
    (s.raise e).dreg = s.dreg := releaseIfOpen_dreg s

@[simp] theorem raise_txw (s : State) (e : ErrCode) :
    (s.raise e).txw = s.txw := releaseIfOpen_txw s

@[simp] theorem raise_rxw (s : State) (e : ErrCode) :
    (s.raise e).rxw = s.rxw := releaseIfOpen_rxw s

@[simp] theorem raise_status (s : State) (e : ErrCode) :
    (s.raise e).status = s.status.fail e := rfl

@[simp] theorem raise_exit (s : State) (e : ErrCode) :
    (s.raise e).exit = some (exitOf e) := rfl

@[simp] theorem raise_wireLog (s : State) (e : ErrCode) :
    (s.raise e).wireLog = s.wireLog := releaseIfOpen_wireLog s

@[simp] theorem raise_cfgIn (s : State) (e : ErrCode) :
    (s.raise e).cfgIn = s.cfgIn := releaseIfOpen_cfgIn s

@[simp] theorem raise_vin (s : State) (e : ErrCode) :
    (s.raise e).vin = s.vin := releaseIfOpen_vin s

@[simp] theorem raise_vref (s : State) (e : ErrCode) :
    (s.raise e).vref = s.vref := releaseIfOpen_vref s

@[simp] theorem raise_waiting (s : State) (e : ErrCode) :
    (s.raise e).waiting = none := rfl

@[simp] theorem raise_ctrl (s : State) (e : ErrCode) :
    (s.raise e).ctrl = s.releaseIfOpen.ctrl := rfl

@[simp] theorem raise_dacWord (s : State) (e : ErrCode) :
    (s.raise e).dacWord = s.dacWord := releaseIfOpen_dacWord s

@[simp] theorem raise_host (s : State) (e : ErrCode) :
    (s.raise e).host = s.host := releaseIfOpen_host s

@[simp] theorem raise_inbox (s : State) (e : ErrCode) :
    (s.raise e).inbox = s.inbox := releaseIfOpen_inbox s

@[simp] theorem raise_eventCount (s : State) (e : ErrCode) :
    (s.raise e).eventCount = s.eventCount := releaseIfOpen_eventCount s

@[simp] theorem raise_hostReads (s : State) (e : ErrCode) :
    (s.raise e).hostReads = s.hostReads := releaseIfOpen_hostReads s

@[simp] theorem raise_draws (s : State) (e : ErrCode) :
    (s.raise e).draws = s.draws := releaseIfOpen_draws s

@[simp] theorem raise_drawCount (s : State) (e : ErrCode) :
    (s.raise e).drawCount = s.drawCount := releaseIfOpen_drawCount s

@[simp] theorem endRun_cfg (s : State) :
    s.endRun.cfg = s.cfg := releaseIfOpen_cfg s

@[simp] theorem endRun_rbMode (s : State) :
    s.endRun.rbMode = s.rbMode := releaseIfOpen_rbMode s

@[simp] theorem endRun_rbBpw (s : State) :
    s.endRun.rbBpw = s.rbBpw := releaseIfOpen_rbBpw s

@[simp] theorem endRun_rbSpeed (s : State) :
    s.endRun.rbSpeed = s.rbSpeed := releaseIfOpen_rbSpeed s

@[simp] theorem endRun_dreg (s : State) :
    s.endRun.dreg = s.dreg := releaseIfOpen_dreg s

@[simp] theorem endRun_txw (s : State) :
    s.endRun.txw = s.txw := releaseIfOpen_txw s

@[simp] theorem endRun_rxw (s : State) :
    s.endRun.rxw = s.rxw := releaseIfOpen_rxw s

@[simp] theorem endRun_status (s : State) :
    s.endRun.status = s.status.finish := rfl

@[simp] theorem endRun_exit (s : State) :
    s.endRun.exit = some 0#8 := rfl

@[simp] theorem endRun_wireLog (s : State) :
    s.endRun.wireLog = s.wireLog := releaseIfOpen_wireLog s

@[simp] theorem endRun_cfgIn (s : State) :
    s.endRun.cfgIn = s.cfgIn := releaseIfOpen_cfgIn s

@[simp] theorem endRun_vin (s : State) :
    s.endRun.vin = s.vin := releaseIfOpen_vin s

@[simp] theorem endRun_vref (s : State) :
    s.endRun.vref = s.vref := releaseIfOpen_vref s

@[simp] theorem endRun_waiting (s : State) :
    s.endRun.waiting = s.waiting := releaseIfOpen_waiting s

@[simp] theorem endRun_ctrl (s : State) :
    s.endRun.ctrl = s.releaseIfOpen.ctrl := rfl

@[simp] theorem endRun_dacWord (s : State) :
    s.endRun.dacWord = s.dacWord := releaseIfOpen_dacWord s

@[simp] theorem endRun_host (s : State) :
    s.endRun.host = s.host := releaseIfOpen_host s

@[simp] theorem endRun_inbox (s : State) :
    s.endRun.inbox = s.inbox := releaseIfOpen_inbox s

@[simp] theorem endRun_eventCount (s : State) :
    s.endRun.eventCount = s.eventCount := releaseIfOpen_eventCount s

@[simp] theorem endRun_hostReads (s : State) :
    s.endRun.hostReads = s.hostReads := releaseIfOpen_hostReads s

@[simp] theorem endRun_draws (s : State) :
    s.endRun.draws = s.draws := releaseIfOpen_draws s

@[simp] theorem endRun_drawCount (s : State) :
    s.endRun.drawCount = s.drawCount := releaseIfOpen_drawCount s

/-! ### The wire log and the DAC -/

@[simp] theorem logWire_cfg (s : State) (e : WireEntry) :
    (s.logWire e).cfg = s.cfg := rfl

@[simp] theorem logWire_rbMode (s : State) (e : WireEntry) :
    (s.logWire e).rbMode = s.rbMode := rfl

@[simp] theorem logWire_rbBpw (s : State) (e : WireEntry) :
    (s.logWire e).rbBpw = s.rbBpw := rfl

@[simp] theorem logWire_rbSpeed (s : State) (e : WireEntry) :
    (s.logWire e).rbSpeed = s.rbSpeed := rfl

@[simp] theorem logWire_dreg (s : State) (e : WireEntry) :
    (s.logWire e).dreg = s.dreg := rfl

@[simp] theorem logWire_txw (s : State) (e : WireEntry) :
    (s.logWire e).txw = s.txw := rfl

@[simp] theorem logWire_rxw (s : State) (e : WireEntry) :
    (s.logWire e).rxw = s.rxw := rfl

@[simp] theorem logWire_status (s : State) (e : WireEntry) :
    (s.logWire e).status = s.status := rfl

@[simp] theorem logWire_exit (s : State) (e : WireEntry) :
    (s.logWire e).exit = s.exit := rfl

@[simp] theorem logWire_wireLog (s : State) (e : WireEntry) :
    (s.logWire e).wireLog = s.wireLog ++ [e] := rfl

@[simp] theorem logWire_cfgIn (s : State) (e : WireEntry) :
    (s.logWire e).cfgIn = s.cfgIn := rfl

@[simp] theorem logWire_vin (s : State) (e : WireEntry) :
    (s.logWire e).vin = s.vin := rfl

@[simp] theorem logWire_vref (s : State) (e : WireEntry) :
    (s.logWire e).vref = s.vref := rfl

@[simp] theorem logWire_waiting (s : State) (e : WireEntry) :
    (s.logWire e).waiting = s.waiting := rfl

@[simp] theorem logWire_ctrl (s : State) (e : WireEntry) :
    (s.logWire e).ctrl = s.ctrl := rfl

@[simp] theorem logWire_dacWord (s : State) (e : WireEntry) :
    (s.logWire e).dacWord = s.dacWord := rfl

@[simp] theorem logWire_host (s : State) (e : WireEntry) :
    (s.logWire e).host = s.host := rfl

@[simp] theorem logWire_inbox (s : State) (e : WireEntry) :
    (s.logWire e).inbox = s.inbox := rfl

@[simp] theorem logWire_eventCount (s : State) (e : WireEntry) :
    (s.logWire e).eventCount = s.eventCount := rfl

@[simp] theorem logWire_hostReads (s : State) (e : WireEntry) :
    (s.logWire e).hostReads = s.hostReads := rfl

@[simp] theorem logWire_draws (s : State) (e : WireEntry) :
    (s.logWire e).draws = s.draws := rfl

@[simp] theorem logWire_drawCount (s : State) (e : WireEntry) :
    (s.logWire e).drawCount = s.drawCount := rfl

@[simp] theorem dacFree_cfg (s : State) (o : Option Half) :
    (s.dacFree o).cfg = s.cfg := rfl

@[simp] theorem dacFree_rbMode (s : State) (o : Option Half) :
    (s.dacFree o).rbMode = s.rbMode := rfl

@[simp] theorem dacFree_rbBpw (s : State) (o : Option Half) :
    (s.dacFree o).rbBpw = s.rbBpw := rfl

@[simp] theorem dacFree_rbSpeed (s : State) (o : Option Half) :
    (s.dacFree o).rbSpeed = s.rbSpeed := rfl

@[simp] theorem dacFree_dreg (s : State) (o : Option Half) :
    (s.dacFree o).dreg = s.dreg := rfl

@[simp] theorem dacFree_txw (s : State) (o : Option Half) :
    (s.dacFree o).txw = s.txw := rfl

@[simp] theorem dacFree_rxw (s : State) (o : Option Half) :
    (s.dacFree o).rxw = s.rxw := rfl

@[simp] theorem dacFree_status (s : State) (o : Option Half) :
    (s.dacFree o).status = s.status := rfl

@[simp] theorem dacFree_exit (s : State) (o : Option Half) :
    (s.dacFree o).exit = s.exit := rfl

@[simp] theorem dacFree_wireLog (s : State) (o : Option Half) :
    (s.dacFree o).wireLog = s.wireLog := rfl

@[simp] theorem dacFree_cfgIn (s : State) (o : Option Half) :
    (s.dacFree o).cfgIn = s.cfgIn := rfl

@[simp] theorem dacFree_vin (s : State) (o : Option Half) :
    (s.dacFree o).vin = s.vin := rfl

@[simp] theorem dacFree_vref (s : State) (o : Option Half) :
    (s.dacFree o).vref = s.vref := rfl

@[simp] theorem dacFree_waiting (s : State) (o : Option Half) :
    (s.dacFree o).waiting = s.waiting := rfl

@[simp] theorem dacFree_ctrl (s : State) (o : Option Half) :
    (s.dacFree o).ctrl = s.ctrl := rfl

@[simp] theorem dacFree_dacWord (s : State) (o : Option Half) :
    (s.dacFree o).dacWord = o.getD s.dacWord := rfl

@[simp] theorem dacFree_host (s : State) (o : Option Half) :
    (s.dacFree o).host = s.host := rfl

@[simp] theorem dacFree_inbox (s : State) (o : Option Half) :
    (s.dacFree o).inbox = s.inbox := rfl

@[simp] theorem dacFree_eventCount (s : State) (o : Option Half) :
    (s.dacFree o).eventCount = s.eventCount := rfl

@[simp] theorem dacFree_hostReads (s : State) (o : Option Half) :
    (s.dacFree o).hostReads = s.hostReads := rfl

@[simp] theorem dacFree_draws (s : State) (o : Option Half) :
    (s.dacFree o).draws = s.draws := rfl

@[simp] theorem dacFree_drawCount (s : State) (o : Option Half) :
    (s.dacFree o).drawCount = s.drawCount := rfl

@[simp] theorem dacAfter_cfg (s : State) (w : Half) (a : Draw) :
    (s.dacAfter w a).cfg = s.cfg := by
  unfold State.dacAfter; split <;> rfl

@[simp] theorem dacAfter_rbMode (s : State) (w : Half) (a : Draw) :
    (s.dacAfter w a).rbMode = s.rbMode := by
  unfold State.dacAfter; split <;> rfl

@[simp] theorem dacAfter_rbBpw (s : State) (w : Half) (a : Draw) :
    (s.dacAfter w a).rbBpw = s.rbBpw := by
  unfold State.dacAfter; split <;> rfl

@[simp] theorem dacAfter_rbSpeed (s : State) (w : Half) (a : Draw) :
    (s.dacAfter w a).rbSpeed = s.rbSpeed := by
  unfold State.dacAfter; split <;> rfl

@[simp] theorem dacAfter_dreg (s : State) (w : Half) (a : Draw) :
    (s.dacAfter w a).dreg = s.dreg := by
  unfold State.dacAfter; split <;> rfl

@[simp] theorem dacAfter_txw (s : State) (w : Half) (a : Draw) :
    (s.dacAfter w a).txw = s.txw := by
  unfold State.dacAfter; split <;> rfl

@[simp] theorem dacAfter_rxw (s : State) (w : Half) (a : Draw) :
    (s.dacAfter w a).rxw = s.rxw := by
  unfold State.dacAfter; split <;> rfl

@[simp] theorem dacAfter_status (s : State) (w : Half) (a : Draw) :
    (s.dacAfter w a).status = s.status := by
  unfold State.dacAfter; split <;> rfl

@[simp] theorem dacAfter_exit (s : State) (w : Half) (a : Draw) :
    (s.dacAfter w a).exit = s.exit := by
  unfold State.dacAfter; split <;> rfl

@[simp] theorem dacAfter_wireLog (s : State) (w : Half) (a : Draw) :
    (s.dacAfter w a).wireLog = s.wireLog := by
  unfold State.dacAfter; split <;> rfl

@[simp] theorem dacAfter_cfgIn (s : State) (w : Half) (a : Draw) :
    (s.dacAfter w a).cfgIn = s.cfgIn := by
  unfold State.dacAfter; split <;> rfl

@[simp] theorem dacAfter_vin (s : State) (w : Half) (a : Draw) :
    (s.dacAfter w a).vin = s.vin := by
  unfold State.dacAfter; split <;> rfl

@[simp] theorem dacAfter_vref (s : State) (w : Half) (a : Draw) :
    (s.dacAfter w a).vref = s.vref := by
  unfold State.dacAfter; split <;> rfl

@[simp] theorem dacAfter_waiting (s : State) (w : Half) (a : Draw) :
    (s.dacAfter w a).waiting = s.waiting := by
  unfold State.dacAfter; split <;> rfl

@[simp] theorem dacAfter_ctrl (s : State) (w : Half) (a : Draw) :
    (s.dacAfter w a).ctrl = s.ctrl := by
  unfold State.dacAfter; split <;> rfl

@[simp] theorem dacAfter_host (s : State) (w : Half) (a : Draw) :
    (s.dacAfter w a).host = s.host := by
  unfold State.dacAfter; split <;> rfl

@[simp] theorem dacAfter_inbox (s : State) (w : Half) (a : Draw) :
    (s.dacAfter w a).inbox = s.inbox := by
  unfold State.dacAfter; split <;> rfl

@[simp] theorem dacAfter_eventCount (s : State) (w : Half) (a : Draw) :
    (s.dacAfter w a).eventCount = s.eventCount := by
  unfold State.dacAfter; split <;> rfl

@[simp] theorem dacAfter_hostReads (s : State) (w : Half) (a : Draw) :
    (s.dacAfter w a).hostReads = s.hostReads := by
  unfold State.dacAfter; split <;> rfl

@[simp] theorem dacAfter_draws (s : State) (w : Half) (a : Draw) :
    (s.dacAfter w a).draws = s.draws := by
  unfold State.dacAfter; split <;> rfl

@[simp] theorem dacAfter_drawCount (s : State) (w : Half) (a : Draw) :
    (s.dacAfter w a).drawCount = s.drawCount := by
  unfold State.dacAfter; split <;> rfl

@[simp] theorem dacAfter_dacWord (s : State) (w : Half) (a : Draw) :
    (s.dacAfter w a).dacWord =
      if nominalLink s.cfg.mode s.cfg.bpw then dacReads (spiFrame s.cfg.mode w a.miso)
      else a.dacTakes.getD s.dacWord := by
  unfold State.dacAfter
  split <;> rfl

/-! ### Read-backs and the verification state -/

@[simp] theorem setSt_cfg (s : State) (p : Param) (v : VerState) :
    (s.setSt p v).cfg = s.cfg := rfl

@[simp] theorem setSt_rbMode (s : State) (p : Param) (v : VerState) :
    (s.setSt p v).rbMode = s.rbMode := rfl

@[simp] theorem setSt_rbBpw (s : State) (p : Param) (v : VerState) :
    (s.setSt p v).rbBpw = s.rbBpw := rfl

@[simp] theorem setSt_rbSpeed (s : State) (p : Param) (v : VerState) :
    (s.setSt p v).rbSpeed = s.rbSpeed := rfl

@[simp] theorem setSt_dreg (s : State) (p : Param) (v : VerState) :
    (s.setSt p v).dreg = s.dreg := rfl

@[simp] theorem setSt_txw (s : State) (p : Param) (v : VerState) :
    (s.setSt p v).txw = s.txw := rfl

@[simp] theorem setSt_rxw (s : State) (p : Param) (v : VerState) :
    (s.setSt p v).rxw = s.rxw := rfl

@[simp] theorem setSt_status (s : State) (p : Param) (v : VerState) :
    (s.setSt p v).status = s.status.setSt p v := rfl

@[simp] theorem setSt_exit (s : State) (p : Param) (v : VerState) :
    (s.setSt p v).exit = s.exit := rfl

@[simp] theorem setSt_wireLog (s : State) (p : Param) (v : VerState) :
    (s.setSt p v).wireLog = s.wireLog := rfl

@[simp] theorem setSt_cfgIn (s : State) (p : Param) (v : VerState) :
    (s.setSt p v).cfgIn = s.cfgIn := rfl

@[simp] theorem setSt_vin (s : State) (p : Param) (v : VerState) :
    (s.setSt p v).vin = s.vin := rfl

@[simp] theorem setSt_vref (s : State) (p : Param) (v : VerState) :
    (s.setSt p v).vref = s.vref := rfl

@[simp] theorem setSt_waiting (s : State) (p : Param) (v : VerState) :
    (s.setSt p v).waiting = s.waiting := rfl

@[simp] theorem setSt_ctrl (s : State) (p : Param) (v : VerState) :
    (s.setSt p v).ctrl = s.ctrl := rfl

@[simp] theorem setSt_dacWord (s : State) (p : Param) (v : VerState) :
    (s.setSt p v).dacWord = s.dacWord := rfl

@[simp] theorem setSt_host (s : State) (p : Param) (v : VerState) :
    (s.setSt p v).host = s.host := rfl

@[simp] theorem setSt_inbox (s : State) (p : Param) (v : VerState) :
    (s.setSt p v).inbox = s.inbox := rfl

@[simp] theorem setSt_eventCount (s : State) (p : Param) (v : VerState) :
    (s.setSt p v).eventCount = s.eventCount := rfl

@[simp] theorem setSt_hostReads (s : State) (p : Param) (v : VerState) :
    (s.setSt p v).hostReads = s.hostReads := rfl

@[simp] theorem setSt_draws (s : State) (p : Param) (v : VerState) :
    (s.setSt p v).draws = s.draws := rfl

@[simp] theorem setSt_drawCount (s : State) (p : Param) (v : VerState) :
    (s.setSt p v).drawCount = s.drawCount := rfl

@[simp] theorem setRb_cfg (s : State) (p : Param) (v : Word) :
    (s.setRb p v).cfg = s.cfg := by cases p <;> rfl

@[simp] theorem setRb_dreg (s : State) (p : Param) (v : Word) :
    (s.setRb p v).dreg = s.dreg := by cases p <;> rfl

@[simp] theorem setRb_txw (s : State) (p : Param) (v : Word) :
    (s.setRb p v).txw = s.txw := by cases p <;> rfl

@[simp] theorem setRb_rxw (s : State) (p : Param) (v : Word) :
    (s.setRb p v).rxw = s.rxw := by cases p <;> rfl

@[simp] theorem setRb_status (s : State) (p : Param) (v : Word) :
    (s.setRb p v).status = s.status := by cases p <;> rfl

@[simp] theorem setRb_exit (s : State) (p : Param) (v : Word) :
    (s.setRb p v).exit = s.exit := by cases p <;> rfl

@[simp] theorem setRb_wireLog (s : State) (p : Param) (v : Word) :
    (s.setRb p v).wireLog = s.wireLog := by cases p <;> rfl

@[simp] theorem setRb_cfgIn (s : State) (p : Param) (v : Word) :
    (s.setRb p v).cfgIn = s.cfgIn := by cases p <;> rfl

@[simp] theorem setRb_vin (s : State) (p : Param) (v : Word) :
    (s.setRb p v).vin = s.vin := by cases p <;> rfl

@[simp] theorem setRb_vref (s : State) (p : Param) (v : Word) :
    (s.setRb p v).vref = s.vref := by cases p <;> rfl

@[simp] theorem setRb_waiting (s : State) (p : Param) (v : Word) :
    (s.setRb p v).waiting = s.waiting := by cases p <;> rfl

@[simp] theorem setRb_ctrl (s : State) (p : Param) (v : Word) :
    (s.setRb p v).ctrl = s.ctrl := by cases p <;> rfl

@[simp] theorem setRb_dacWord (s : State) (p : Param) (v : Word) :
    (s.setRb p v).dacWord = s.dacWord := by cases p <;> rfl

@[simp] theorem setRb_host (s : State) (p : Param) (v : Word) :
    (s.setRb p v).host = s.host := by cases p <;> rfl

@[simp] theorem setRb_inbox (s : State) (p : Param) (v : Word) :
    (s.setRb p v).inbox = s.inbox := by cases p <;> rfl

@[simp] theorem setRb_eventCount (s : State) (p : Param) (v : Word) :
    (s.setRb p v).eventCount = s.eventCount := by cases p <;> rfl

@[simp] theorem setRb_hostReads (s : State) (p : Param) (v : Word) :
    (s.setRb p v).hostReads = s.hostReads := by cases p <;> rfl

@[simp] theorem setRb_draws (s : State) (p : Param) (v : Word) :
    (s.setRb p v).draws = s.draws := by cases p <;> rfl

@[simp] theorem setRb_drawCount (s : State) (p : Param) (v : Word) :
    (s.setRb p v).drawCount = s.drawCount := by cases p <;> rfl

/-! ### The host's counter and ports -/

@[simp] theorem afterCommand_cfg (s : State) :
    s.afterCommand.cfg = s.cfg := by
  unfold State.afterCommand; split <;> (try split) <;> rfl

@[simp] theorem afterCommand_rbMode (s : State) :
    s.afterCommand.rbMode = s.rbMode := by
  unfold State.afterCommand; split <;> (try split) <;> rfl

@[simp] theorem afterCommand_rbBpw (s : State) :
    s.afterCommand.rbBpw = s.rbBpw := by
  unfold State.afterCommand; split <;> (try split) <;> rfl

@[simp] theorem afterCommand_rbSpeed (s : State) :
    s.afterCommand.rbSpeed = s.rbSpeed := by
  unfold State.afterCommand; split <;> (try split) <;> rfl

@[simp] theorem afterCommand_dreg (s : State) :
    s.afterCommand.dreg = s.dreg := by
  unfold State.afterCommand; split <;> (try split) <;> rfl

@[simp] theorem afterCommand_txw (s : State) :
    s.afterCommand.txw = s.txw := by
  unfold State.afterCommand; split <;> (try split) <;> rfl

@[simp] theorem afterCommand_rxw (s : State) :
    s.afterCommand.rxw = s.rxw := by
  unfold State.afterCommand; split <;> (try split) <;> rfl

@[simp] theorem afterCommand_status (s : State) :
    s.afterCommand.status = s.status := by
  unfold State.afterCommand; split <;> (try split) <;> rfl

@[simp] theorem afterCommand_exit (s : State) :
    s.afterCommand.exit = s.exit := by
  unfold State.afterCommand; split <;> (try split) <;> rfl

@[simp] theorem afterCommand_wireLog (s : State) :
    s.afterCommand.wireLog = s.wireLog := by
  unfold State.afterCommand; split <;> (try split) <;> rfl

@[simp] theorem afterCommand_cfgIn (s : State) :
    s.afterCommand.cfgIn = s.cfgIn := by
  unfold State.afterCommand; split <;> (try split) <;> rfl

@[simp] theorem afterCommand_vin (s : State) :
    s.afterCommand.vin = s.vin := by
  unfold State.afterCommand; split <;> (try split) <;> rfl

@[simp] theorem afterCommand_vref (s : State) :
    s.afterCommand.vref = s.vref := by
  unfold State.afterCommand; split <;> (try split) <;> rfl

@[simp] theorem afterCommand_waiting (s : State) :
    s.afterCommand.waiting = s.waiting := by
  unfold State.afterCommand; split <;> (try split) <;> rfl

@[simp] theorem afterCommand_ctrl (s : State) :
    s.afterCommand.ctrl = s.ctrl := by
  unfold State.afterCommand; split <;> (try split) <;> rfl

@[simp] theorem afterCommand_dacWord (s : State) :
    s.afterCommand.dacWord = s.dacWord := by
  unfold State.afterCommand; split <;> (try split) <;> rfl

@[simp] theorem afterCommand_inbox (s : State) :
    s.afterCommand.inbox = s.inbox := by
  unfold State.afterCommand; split <;> (try split) <;> rfl

@[simp] theorem afterCommand_draws (s : State) :
    s.afterCommand.draws = s.draws := by
  unfold State.afterCommand; split <;> (try split) <;> rfl

@[simp] theorem afterCommand_drawCount (s : State) :
    s.afterCommand.drawCount = s.drawCount := by
  unfold State.afterCommand; split <;> (try split) <;> rfl

@[simp] theorem present_cfg (s : State) (c : HostCmd) :
    (s.present c).cfg = s.cfg := by
  unfold State.present; split <;> rfl

@[simp] theorem present_rbMode (s : State) (c : HostCmd) :
    (s.present c).rbMode = s.rbMode := by
  unfold State.present; split <;> rfl

@[simp] theorem present_rbBpw (s : State) (c : HostCmd) :
    (s.present c).rbBpw = s.rbBpw := by
  unfold State.present; split <;> rfl

@[simp] theorem present_rbSpeed (s : State) (c : HostCmd) :
    (s.present c).rbSpeed = s.rbSpeed := by
  unfold State.present; split <;> rfl

@[simp] theorem present_dreg (s : State) (c : HostCmd) :
    (s.present c).dreg = s.dreg := by
  unfold State.present; split <;> rfl

@[simp] theorem present_txw (s : State) (c : HostCmd) :
    (s.present c).txw = s.txw := by
  unfold State.present; split <;> rfl

@[simp] theorem present_rxw (s : State) (c : HostCmd) :
    (s.present c).rxw = s.rxw := by
  unfold State.present; split <;> rfl

@[simp] theorem present_status (s : State) (c : HostCmd) :
    (s.present c).status = s.status := by
  unfold State.present; split <;> rfl

@[simp] theorem present_exit (s : State) (c : HostCmd) :
    (s.present c).exit = s.exit := by
  unfold State.present; split <;> rfl

@[simp] theorem present_wireLog (s : State) (c : HostCmd) :
    (s.present c).wireLog = s.wireLog := by
  unfold State.present; split <;> rfl

@[simp] theorem present_cfgIn (s : State) (c : HostCmd) :
    (s.present c).cfgIn = c.cfgIn.getD s.cfgIn := by
  unfold State.present; split <;> rfl

@[simp] theorem present_vref (s : State) (c : HostCmd) :
    (s.present c).vref = s.vref := by
  unfold State.present; split <;> rfl

@[simp] theorem present_waiting (s : State) (c : HostCmd) :
    (s.present c).waiting = s.waiting := by
  unfold State.present; split <;> rfl

@[simp] theorem present_ctrl (s : State) (c : HostCmd) :
    (s.present c).ctrl = s.ctrl := by
  unfold State.present; split <;> rfl

@[simp] theorem present_dacWord (s : State) (c : HostCmd) :
    (s.present c).dacWord = s.dacWord := by
  unfold State.present; split <;> rfl

@[simp] theorem present_host (s : State) (c : HostCmd) :
    (s.present c).host = s.host := by
  unfold State.present; split <;> rfl

@[simp] theorem present_inbox (s : State) (c : HostCmd) :
    (s.present c).inbox = s.inbox := by
  unfold State.present; split <;> rfl

@[simp] theorem present_eventCount (s : State) (c : HostCmd) :
    (s.present c).eventCount = s.eventCount := by
  unfold State.present; split <;> rfl

@[simp] theorem present_hostReads (s : State) (c : HostCmd) :
    (s.present c).hostReads = s.hostReads := by
  unfold State.present; split <;> rfl

/-! ### What a kill does to the command that waits -/

@[simp] theorem killWaiting_cfg (s : State) :
    s.killWaiting.cfg = s.cfg := by
  unfold State.killWaiting; split <;> rfl

@[simp] theorem killWaiting_rbMode (s : State) :
    s.killWaiting.rbMode = s.rbMode := by
  unfold State.killWaiting; split <;> rfl

@[simp] theorem killWaiting_rbBpw (s : State) :
    s.killWaiting.rbBpw = s.rbBpw := by
  unfold State.killWaiting; split <;> rfl

@[simp] theorem killWaiting_rbSpeed (s : State) :
    s.killWaiting.rbSpeed = s.rbSpeed := by
  unfold State.killWaiting; split <;> rfl

@[simp] theorem killWaiting_dreg (s : State) :
    s.killWaiting.dreg = s.dreg := by
  unfold State.killWaiting; split <;> rfl

@[simp] theorem killWaiting_txw (s : State) :
    s.killWaiting.txw = s.txw := by
  unfold State.killWaiting; split <;> rfl

@[simp] theorem killWaiting_status (s : State) :
    s.killWaiting.status = s.status := by
  unfold State.killWaiting; split <;> rfl

@[simp] theorem killWaiting_exit (s : State) :
    s.killWaiting.exit = s.exit := by
  unfold State.killWaiting; split <;> rfl

@[simp] theorem killWaiting_cfgIn (s : State) :
    s.killWaiting.cfgIn = s.cfgIn := by
  unfold State.killWaiting; split <;> rfl

@[simp] theorem killWaiting_vin (s : State) :
    s.killWaiting.vin = s.vin := by
  unfold State.killWaiting; split <;> rfl

@[simp] theorem killWaiting_vref (s : State) :
    s.killWaiting.vref = s.vref := by
  unfold State.killWaiting; split <;> rfl

@[simp] theorem killWaiting_waiting (s : State) :
    s.killWaiting.waiting = s.waiting := by
  unfold State.killWaiting; split <;> rfl

@[simp] theorem killWaiting_host (s : State) :
    s.killWaiting.host = s.host := by
  unfold State.killWaiting; split <;> rfl

@[simp] theorem killWaiting_inbox (s : State) :
    s.killWaiting.inbox = s.inbox := by
  unfold State.killWaiting; split <;> rfl

@[simp] theorem killWaiting_eventCount (s : State) :
    s.killWaiting.eventCount = s.eventCount := by
  unfold State.killWaiting; split <;> rfl

@[simp] theorem killWaiting_hostReads (s : State) :
    s.killWaiting.hostReads = s.hostReads := by
  unfold State.killWaiting; split <;> rfl

/-! ### STATUS -/

@[simp] theorem fail_phase (t : Status) (e : ErrCode) : (t.fail e).phase = .stopped := rfl

@[simp] theorem fail_err (t : Status) (e : ErrCode) : (t.fail e).err = e := rfl

@[simp] theorem fail_faultClass (t : Status) (e : ErrCode) :
    (t.fail e).faultClass = e.faultClass := rfl

@[simp] theorem fail_killed (t : Status) (e : ErrCode) : (t.fail e).killed = t.killed := rfl

@[simp] theorem fail_st (t : Status) (e : ErrCode) (p : Param) : (t.fail e).st p = t.st p := by
  cases p <;> rfl

@[simp] theorem enter_phase (t : Status) (p : Phase) : (t.enter p).phase = p := rfl

@[simp] theorem enter_st (t : Status) (ph : Phase) (p : Param) : (t.enter ph).st p = .none := by
  cases p <;> rfl

@[simp] theorem enter_err (t : Status) (p : Phase) : (t.enter p).err = t.err := rfl

@[simp] theorem enter_killed (t : Status) (p : Phase) : (t.enter p).killed = t.killed := rfl

@[simp] theorem enter_faultClass (t : Status) (p : Phase) :
    (t.enter p).faultClass = t.faultClass := rfl

@[simp] theorem setSt_same (t : Status) (p : Param) (v : VerState) : (t.setSt p v).st p = v := by
  cases p <;> rfl

theorem setSt_other (t : Status) {p q : Param} (v : VerState) (h : q ≠ p) :
    (t.setSt p v).st q = t.st q := by
  cases p <;> cases q <;> first | rfl | exact absurd rfl h

@[simp] theorem setSt_phase (t : Status) (p : Param) (v : VerState) :
    (t.setSt p v).phase = t.phase := by
  cases p <;> rfl

@[simp] theorem setSt_err (t : Status) (p : Param) (v : VerState) :
    (t.setSt p v).err = t.err := by
  cases p <;> rfl

@[simp] theorem setSt_killed (t : Status) (p : Param) (v : VerState) :
    (t.setSt p v).killed = t.killed := by
  cases p <;> rfl

@[simp] theorem setSt_faultClass (t : Status) (p : Param) (v : VerState) :
    (t.setSt p v).faultClass = t.faultClass := by
  cases p <;> rfl

@[simp] theorem kill_phase (t : Status) : t.kill.phase = .stopped := rfl

@[simp] theorem kill_killed (t : Status) : t.kill.killed = true := rfl

@[simp] theorem kill_err (t : Status) : t.kill.err = t.err := rfl

@[simp] theorem kill_faultClass (t : Status) : t.kill.faultClass = t.faultClass := rfl

@[simp] theorem finish_phase (t : Status) : t.finish.phase = .stopped := rfl

@[simp] theorem finish_killed (t : Status) : t.finish.killed = t.killed := rfl

@[simp] theorem finish_err (t : Status) : t.finish.err = t.err := rfl

@[simp] theorem finish_faultClass (t : Status) : t.finish.faultClass = t.faultClass := rfl

/-! ### The handle -/

theorem releaseIfOpen_opened {s : State} (h : s.status.phase = .opened) :
    s.releaseIfOpen.ctrl = { s.ctrl with held := false } := by
  simp [State.releaseIfOpen, h]

theorem releaseIfOpen_other {s : State} (h : s.status.phase ≠ .opened) : s.releaseIfOpen = s := by
  simp [State.releaseIfOpen, h]

/-- A release never leaves the handle held in PHASE OPEN, and touches no setting. -/
theorem releaseIfOpen_ctrl_cases (s : State) :
    (s.status.phase = .opened ∧ s.releaseIfOpen.ctrl = { s.ctrl with held := false }) ∨
      (s.status.phase ≠ .opened ∧ s.releaseIfOpen.ctrl = s.ctrl) := by
  by_cases h : s.status.phase = .opened
  · exact .inl ⟨h, releaseIfOpen_opened h⟩
  · exact .inr ⟨h, by rw [releaseIfOpen_other h]⟩

end Machine
end Sys2Proof
end

