-- ==== Sys2Proof/Laws/Ops.lean ====
section
/-!
SUPPORT. Once for each shared operation, everything it can do: the phase check of a command, asking
the controller, the bodies of the commands, `exec` and `step`.
-/

namespace Sys2Proof
namespace Machine

/-! ### The conditions on STATUS -/

theorem wasWritten_iff (v : VerState) : v.wasWritten = true ↔ v = .written ∨ v = .verified := by
  cases v <;> decide

theorem wasWritten_eq_false_iff (v : VerState) : v.wasWritten = false ↔ v = .none := by
  cases v <;> decide

theorem allVerified_iff (t : Status) : t.allVerified = true ↔
    t.modeSt = .verified ∧ t.bpwSt = .verified ∧ t.spdSt = .verified := by
  simp [Status.allVerified]

theorem isOpen_iff (s : State) : s.isOpen = true ↔ s.status.phase = .opened := by
  simp [State.isOpen]

/-! ### The phase check (00_scope R13, 60_exceptions R255) -/

theorem command_stopped {s : State} {pre : Bool} {body : State → State}
    (h : s.status.phase = .stopped) : s.command pre body = s := by
  simp [State.command, h]

theorem command_run {s : State} {pre : Bool} {body : State → State}
    (h : s.status.phase ≠ .stopped) (hp : pre = true) : s.command pre body = body s := by
  simp [State.command, h, hp]

theorem command_sequence {s : State} {pre : Bool} {body : State → State}
    (h : s.status.phase ≠ .stopped) (hp : pre = false) :
    s.command pre body = s.raise .sequence := by
  simp [State.command, h, hp]

/-- Everything a command's wrapper can do. -/
theorem command_cases (s : State) (pre : Bool) (body : State → State) :
    (s.status.phase = .stopped ∧ s.command pre body = s) ∨
      (s.status.phase ≠ .stopped ∧ pre = true ∧ s.command pre body = body s) ∨
      (s.status.phase ≠ .stopped ∧ pre = false ∧ s.command pre body = s.raise .sequence) := by
  by_cases h : s.status.phase = .stopped
  · exact .inl ⟨h, command_stopped h⟩
  · cases hp : pre
    · exact .inr (.inr ⟨h, rfl, command_sequence h rfl⟩)
    · exact .inr (.inl ⟨h, rfl, command_run h rfl⟩)

/-! ### Asking the controller (60_exceptions R257) -/

theorem ask_answered {s : State} {r : CtrlReq} {k : Draw → State → State}
    (h : (s.peek (.ctrl r)).answered = true) :
    s.ask r k = k (s.peek (.ctrl r)) { s.tick with waiting := none } := by
  simp [State.ask, h]

theorem ask_silent {s : State} {r : CtrlReq} {k : Draw → State → State}
    (h : (s.peek (.ctrl r)).answered = false) :
    s.ask r k = { s.tick with waiting := some r } := by
  simp [State.ask, h]

/-- Everything asking the controller can do. -/
theorem ask_cases (s : State) (r : CtrlReq) (k : Draw → State → State) :
    (∃ a : Draw, s.peek (.ctrl r) = a ∧ a.answered = true ∧
        s.ask r k = k a { s.tick with waiting := none }) ∨
      ((s.peek (.ctrl r)).answered = false ∧ s.ask r k = { s.tick with waiting := some r }) := by
  cases h : (s.peek (.ctrl r)).answered
  · exact .inr ⟨rfl, ask_silent h⟩
  · exact .inl ⟨_, rfl, h, ask_answered h⟩

@[simp] theorem advance_peek (s : State) (q : Query) : s.advance.peek q = s.peek q := rfl

theorem peek_cons {s : State} {d : Draw} {ds : List Draw} (h : s.draws = d :: ds) (q : Query) :
    s.peek q = d := by
  simp [State.peek, h]

/-! ### The bodies of the commands -/

theorem afterOpen_cases (a : Draw) (s : State) :
    (a.ok = true ∧ s.afterOpen a = { s with
        status := s.status.enter .opened
        ctrl := { s.ctrl.forget.settle a with held := true } }) ∨
      (a.ok = false ∧ s.afterOpen a = (s.settle a).raise .cfgOpen) := by
  cases h : a.ok <;> simp [State.afterOpen, h]

theorem afterWrite_cases (p : Param) (a : Draw) (s : State) :
    (a.ok = true ∧ s.afterWrite p a =
        { s.setSt p .written with ctrl := (s.ctrl.settle a).accept p (cfgParam s.cfg p) }) ∨
      (a.ok = false ∧ s.afterWrite p a = (s.settle a).raise (wrError p)) := by
  cases h : a.ok <;> simp [State.afterWrite, h]

theorem afterRead_cases (p : Param) (a : Draw) (s : State) :
    (a.ok = true ∧ readValue p a.value = cfgParam s.cfg p ∧
        s.afterRead p a = (s.setRb p a.value).setSt p .verified) ∨
      (a.ok = true ∧ readValue p a.value ≠ cfgParam s.cfg p ∧
        s.afterRead p a = (s.setRb p a.value).raise (mismatchError p)) ∨
      (a.ok = false ∧ s.afterRead p a = s.raise (rdError p)) := by
  cases h : a.ok
  · simp [State.afterRead, h]
  · by_cases hv : readValue p a.value = cfgParam s.cfg p <;> simp [State.afterRead, h, hv]

theorem afterXfer_cases (w : Half) (a : Draw) (s : State) :
    (a.count < ((descOf s.cfg w).len : Int) ∧ s.afterXfer w a = s.transferShort w a) ∨
      (¬ a.count < ((descOf s.cfg w).len : Int) ∧ s.afterXfer w a = s.transferOk w a) := by
  by_cases h : a.count < ((descOf s.cfg w).len : Int)
  · exact .inl ⟨h, if_pos h⟩
  · exact .inr ⟨h, if_neg h⟩

theorem encode_cases (s : State) (ch buf g2x : Bool) :
    (s.dreg = none ∧ s.encode ch buf g2x = s.raise .unwritten) ∨
      (∃ d, s.dreg = some d ∧ s.encode ch buf g2x =
        { s with txw := some (encWord ch buf g2x d) }) := by
  cases h : s.dreg <;> simp [State.encode, h]

theorem convert_cases (s : State) :
    (convCode s.vin s.vref = none ∧ s.convert = s.raise .convRange) ∨
      (∃ c, convCode s.vin s.vref = some c ∧ s.convert = { s with dreg := some c }) := by
  cases h : convCode s.vin s.vref <;> simp [State.convert, h]

theorem transfer_cases (s : State) :
    (s.txw = none ∧ s.transfer = s.raise .unwritten) ∨
      (∃ w, s.txw = some w ∧ s.cfg.bpw ≠ 16#8 ∧ s.transfer = s.raise .unmodelledBpw) ∨
      (∃ w, s.txw = some w ∧ s.cfg.bpw = 16#8 ∧
        s.transfer = s.ask (.xfer (descOf s.cfg w)) (State.afterXfer w)) := by
  cases h : s.txw with
  | none => simp [State.transfer, h]
  | some w => by_cases hb : s.cfg.bpw = 16#8 <;> simp [State.transfer, h, hb]

/-- Everything usage_stop can do. -/
theorem usageStopped_cases (s : State) :
    (s.status.phase = .idle ∧ s.usageStopped = s.cutOpen.raise .usage) ∨
      (s.status.phase ≠ .idle ∧ s.usageStopped = s) := by
  by_cases h : s.status.phase = .idle
  · exact .inl ⟨h, if_pos h⟩
  · exact .inr ⟨h, if_neg h⟩

/-- What the DAC holds after an exchange is the only field `dacAfter` touches. -/
theorem dacAfter_eq (s : State) (w : Half) (a : Draw) :
    ∃ v, s.dacAfter w a = { s with dacWord := v } := by
  unfold State.dacAfter
  split
  · exact ⟨_, rfl⟩
  · exact ⟨_, rfl⟩

/-- Everything a kill does to the command that waits. -/
theorem killWaiting_cases (s : State) :
    (s.waiting = none ∧ s.killWaiting = s) ∨
      (∃ d, s.waiting = some (.xfer d) ∧ s.killWaiting =
        { s.tick with
          rxw := none, wireLog := s.wireLog ++ [s.entry d.tx .killed none]
          dacWord := (s.peek (.cutOff (.xfer d))).dacTakes.getD s.dacWord }) ∨
      (∃ r, s.waiting = some r ∧ (∀ d, r ≠ .xfer d) ∧
        s.killWaiting = s.cutCtrl r) := by
  cases h : s.waiting with
  | none => simp [State.killWaiting, h]
  | some r => cases r <;> simp [State.killWaiting, h, State.dacFree, State.latch, State.tick]

theorem killed_stopped {s : State} (h : s.status.phase = .stopped) : s.killed = s := by
  simp [State.killed, h]

theorem killed_running {s : State} (h : s.status.phase ≠ .stopped) :
    s.killed = { s.killWaiting.releaseIfOpen with
      status := s.status.kill, exit := some Config.killStatus, waiting := none } := by
  simp [State.killed, h]

/-! ### exec -/

/-- exec answers a next state for every instruction: every error is taken (60_exceptions R250). -/
theorem exec_total (i : Instr) (s : State) : ∃ t, exec i s = .next t := by
  cases i <;> exact ⟨_, rfl⟩

/-- The effect of an instruction, as a function. -/
def effect (i : Instr) (s : State) : State :=
  match exec i s with
  | .next t => t
  | _ => s

theorem exec_effect (i : Instr) (s : State) : exec i s = .next (effect i s) := by
  cases i <;> rfl

@[simp] theorem effect_ldcfg (s : State) : effect .ldcfg s =
    s.command (decide (s.status.phase = .idle)) (fun t => { t with cfg := t.cfgIn }) := rfl

@[simp] theorem effect_openDev (s : State) : effect .openDev s =
    s.command (decide (s.status.phase = .idle ∨ s.status.phase = .closed))
      (fun t => t.ask (.openDev t.cfg.path) State.afterOpen) := rfl

@[simp] theorem effect_wrmode (s : State) : effect .wrmode s = s.writeParam .mode := rfl

@[simp] theorem effect_rdmode (s : State) : effect .rdmode s = s.readParam .mode := rfl

@[simp] theorem effect_wrbpw (s : State) : effect .wrbpw s = s.writeParam .bpw := rfl

@[simp] theorem effect_rdbpw (s : State) : effect .rdbpw s = s.readParam .bpw := rfl

@[simp] theorem effect_wrspd (s : State) : effect .wrspd s = s.writeParam .speed := rfl

@[simp] theorem effect_rdspd (s : State) : effect .rdspd s = s.readParam .speed := rfl

@[simp] theorem effect_conv (s : State) :
    effect .conv s = s.command true (fun t => t.convert) := rfl

@[simp] theorem effect_ldd (imm : Half) (s : State) :
    effect (.ldd imm) s = s.command true (fun t => { t with dreg := some imm }) := rfl

@[simp] theorem effect_enc (ch buf g2x : Bool) (s : State) :
    effect (.enc ch buf g2x) s = s.command true (fun t => t.encode ch buf g2x) := rfl

@[simp] theorem effect_xfer (s : State) :
    effect .xfer s = s.command (s.isOpen && s.status.allVerified) State.transfer := rfl

@[simp] theorem effect_close (s : State) : effect .close s =
    s.command s.isOpen (fun t =>
      { t with status := t.status.enter .closed, ctrl := { t.ctrl with held := false } }) := rfl

@[simp] theorem effect_reservedOp0 (low : BitVec 28) (s : State) :
    effect (.reservedOp0 low) s = s.illegal := rfl

@[simp] theorem effect_reservedOpE (low : BitVec 28) (s : State) :
    effect (.reservedOpE low) s = s.illegal := rfl

@[simp] theorem effect_reservedOpF (low : BitVec 28) (s : State) :
    effect (.reservedOpF low) s = s.illegal := rfl

@[simp] theorem effect_dacwr (ch buf gaN : Bool) (data : BitVec 10) (s : State) :
    effect (.dacwr ch buf gaN data) s = s.latch (cw16Of ch buf gaN data) := rfl

/-! ### step -/

theorem step_kill {s : State} (h : s.arrival = some .kill) :
    step s = .next s.advance.killed := by
  simp [step, State.select, h, State.takeEvent]

theorem step_usageStop {s : State} (h : s.arrival = some .usageStop) :
    step s = .next s.advance.usageStopped := by
  simp [step, State.select, h, State.takeEvent]

theorem step_reset {s : State} (h : s.arrival = some .reset) :
    step s = .next s.advance.resetBlock := by
  simp [step, State.select, h, State.takeEvent]

/-- A word at the DAC's serial input has no effect outside an XFER (00_scope R16). -/
theorem step_dacWord_ignored {s : State} {w : Half} (h : s.arrival = some (.dacWord w))
    (ht : s.advance.transferWaits = false) : step s = .next s.advance := by
  simp [step, State.select, h, State.takeEvent, ht]

/-- Within an XFER it is what the DAC holds. -/
theorem step_dacWord {s : State} {w : Half} (h : s.arrival = some (.dacWord w))
    (ht : s.advance.transferWaits = true) : step s = .next (s.advance.latch w) := by
  by_cases hc : w.getLsbD 12 = true ∧ w.extractLsb' 0 2 = 0#2
  · simp only [step, State.select, h, State.takeEvent, ht, if_true, decodeCw16, if_pos hc, exec,
      execDacwr, cw16Of_fields hc.1 hc.2]
  · simp only [step, State.select, h, State.takeEvent, ht, if_true, decodeCw16, if_neg hc]

theorem step_stopped {s : State} (ha : s.arrival = none) (h : s.status.phase = .stopped) :
    step s = .next s.advance := by
  simp [step, State.select, State.turn, ha, h]

theorem step_waiting {s : State} {r : CtrlReq} (ha : s.arrival = none)
    (h : s.status.phase ≠ .stopped) (hw : s.waiting = some r) :
    step s = .next (effect (reqInstr r) s.advance).afterCommand := by
  simp [step, State.select, State.turn, ha, h, hw, exec_effect, finishCommand]

theorem step_noProgram {s : State} (ha : s.arrival = none) (hw : s.waiting = none)
    (hh : s.host = none) : step s = .next s.advance := by
  simp only [step, State.select, State.turn, ha, advance_waiting, hw, State.fetch, advance_host, hh]
  split <;> split at * <;> simp_all

theorem step_end {s : State} {p : HostProgram} (ha : s.arrival = none)
    (h : s.status.phase ≠ .stopped) (hw : s.waiting = none) (hh : s.host = some p)
    (hc : p.cmds[p.hpc]? = none) : step s = .next s.advance.endRun := by
  simp [step, State.select, State.turn, ha, h, hw, State.fetch, hh, hc]

theorem step_command {s : State} {p : HostProgram} {c : HostCmd} {i : Instr}
    (ha : s.arrival = none) (h : s.status.phase ≠ .stopped) (hw : s.waiting = none)
    (hh : s.host = some p) (hc : p.cmds[p.hpc]? = some c) (hd : decodeHc32 c.word = .ok i) :
    step s = .next (effect i (s.advance.present c)).afterCommand := by
  simp [step, State.select, State.turn, ha, h, hw, State.fetch, hh, hc, State.issue, hd,
    exec_effect, finishCommand]

theorem step_illegal {s : State} {p : HostProgram} {c : HostCmd} {e : DecodeError}
    (ha : s.arrival = none) (h : s.status.phase ≠ .stopped) (hw : s.waiting = none)
    (hh : s.host = some p) (hc : p.cmds[p.hpc]? = some c) (hd : decodeHc32 c.word = .error e) :
    step s = .next (s.advance.present c).illegal := by
  simp [step, State.select, State.turn, ha, h, hw, State.fetch, hh, hc, State.issue, hd]

/-- Everything a step can do. -/
theorem step_cases (s : State) :
    (s.arrival = some .kill ∧ step s = .next s.advance.killed) ∨
    (s.arrival = some .usageStop ∧ step s = .next s.advance.usageStopped) ∨
    (s.arrival = some .reset ∧ step s = .next s.advance.resetBlock) ∨
    (∃ w, s.arrival = some (.dacWord w) ∧ step s = .next (s.advance.latch w)) ∨
    (s.arrival ≠ some .reset ∧ step s = .next s.advance) ∨
    (s.arrival = none ∧ s.status.phase ≠ .stopped ∧ ∃ r, s.waiting = some r ∧
      step s = .next (effect (reqInstr r) s.advance).afterCommand) ∨
    (s.arrival = none ∧ s.status.phase ≠ .stopped ∧ s.waiting = none ∧
      step s = .next s.advance.endRun) ∨
    (s.arrival = none ∧ s.status.phase ≠ .stopped ∧ s.waiting = none ∧
      ∃ c i, decodeHc32 c.word = .ok i ∧
        step s = .next (effect i (s.advance.present c)).afterCommand) ∨
    (s.arrival = none ∧ s.status.phase ≠ .stopped ∧ s.waiting = none ∧
      ∃ c, step s = .next (s.advance.present c).illegal) := by
  match ha : s.arrival with
  | some .kill => exact .inl ⟨rfl, step_kill ha⟩
  | some .usageStop => exact .inr (.inl ⟨rfl, step_usageStop ha⟩)
  | some .reset => exact .inr (.inr (.inl ⟨rfl, step_reset ha⟩))
  | some (.dacWord w) =>
    refine .inr (.inr (.inr ?_))
    cases ht : s.advance.transferWaits with
    | true => exact .inl ⟨w, rfl, step_dacWord ha ht⟩
    | false => exact .inr (.inl ⟨by simp, step_dacWord_ignored ha ht⟩)
  | none =>
    refine .inr (.inr (.inr (.inr ?_)))
    by_cases h : s.status.phase = .stopped
    · exact .inl ⟨by simp, step_stopped ha h⟩
    cases hw : s.waiting with
    | some r => exact .inr (.inl ⟨rfl, h, r, rfl, step_waiting ha h hw⟩)
    | none =>
      cases hh : s.host with
      | none => exact .inl ⟨by simp, step_noProgram ha hw hh⟩
      | some p =>
        cases hc : p.cmds[p.hpc]? with
        | none => exact .inr (.inr (.inl ⟨rfl, h, rfl, step_end ha h hw hh hc⟩))
        | some c =>
          cases hd : decodeHc32 c.word with
          | ok i =>
            exact .inr (.inr (.inr (.inl ⟨rfl, h, rfl, c, i, hd, step_command ha h hw hh hc hd⟩)))
          | error e =>
            exact .inr (.inr (.inr (.inr ⟨rfl, h, rfl, c, step_illegal ha h hw hh hc hd⟩)))

end Machine
end Sys2Proof
end

