-- ==== Sys2Proof/Laws/Frame.lean ====
section
/-!
SUPPORT. A property kept by each elementary update of the state is kept by every instruction, and by
every step: the case analysis over the instructions and over what a step can do, done once.
-/

namespace Sys2Proof
namespace Machine

/-- A property that every elementary update keeps is kept by the effect of every instruction. Each
premise carries what is known at that point: the phase, the request, the precondition. -/
theorem effect_preserves (P : State → Prop) (i : Instr) (s : State) (h0 : P s)
    (hraise : ∀ u e, P u → u.status.phase ≠ .stopped → e ≠ .none → P (u.raise e))
    (hcfg : s.status.phase = .idle → P { s with cfg := s.cfgIn })
    (hdreg : ∀ u v, P u → P { u with dreg := v })
    (htxw : ∀ ch buf g2x d, P { s with txw := some (encWord ch buf g2x d) })
    (hdac : ∀ u v, P u → P { u with dacWord := v })
    (hwait : ∀ r, s.status.phase ≠ .stopped → ReqOk s r → P { s.tick with waiting := some r })
    (hnow : P { s.tick with waiting := none })
    (hsettle : ∀ u a, P u → P (u.settle a))
    (hopen : ∀ a, s.status.phase = .idle ∨ s.status.phase = .closed →
      P { s.tick with
        waiting := none, status := s.status.enter .opened
        ctrl := { s.ctrl.forget.settle a with held := true } })
    (hwrite : ∀ p a, s.status.phase = .opened →
      P { s.tick.setSt p .written with
        waiting := none, ctrl := (s.ctrl.settle a).accept p (cfgParam s.cfg p) })
    (hread : ∀ p v, s.status.phase = .opened → (s.status.st p).wasWritten = true →
      P (({ s.tick with waiting := none } : State).setRb p v |>.raise (mismatchError p)) ∧
        (readValue p v = cfgParam s.cfg p →
          P (({ s.tick with waiting := none } : State).setRb p v |>.setSt p .verified)))
    (hxfer : ∀ w o m r, s.txw = some w → s.cfg.bpw = 16#8 → s.status.phase = .opened →
      P { s.tick with waiting := none, rxw := r, wireLog := s.wireLog ++ [s.entry w o m] })
    (hclose : s.status.phase = .opened →
      P { s with status := s.status.enter .closed, ctrl := { s.ctrl with held := false } }) :
    P (effect i s) := by
  have hcommand : ∀ pre body,
      (s.status.phase ≠ .stopped → pre = true → P (body s)) → P (s.command pre body) := by
    intro pre body hrun
    rcases command_cases s pre body with ⟨_, h⟩ | ⟨hs, hp, h⟩ | ⟨hs, hp, h⟩ <;> rw [h]
    · exact h0
    · exact hrun hs hp
    · exact hraise _ _ h0 hs (by simp)
  have hask : ∀ r k, s.status.phase ≠ .stopped → ReqOk s r →
      (∀ a, P (k a { s.tick with waiting := none })) → P (s.ask r k) := by
    intro r k hs hr hk
    rcases ask_cases s r k with ⟨a, _, _, h⟩ | ⟨_, h⟩ <;> rw [h]
    · exact hk a
    · exact hwait r hs hr
  have hwriteAll : ∀ p, P (s.writeParam p) := by
    intro p
    refine hcommand _ _ fun hs hp => ?_
    have hop : s.status.phase = .opened := by simpa [State.isOpen] using hp
    refine hask _ _ hs ⟨hop, rfl⟩ fun a => ?_
    rcases afterWrite_cases p a { s.tick with waiting := none } with ⟨_, h⟩ | ⟨_, h⟩ <;> rw [h]
    · exact hwrite p a hop
    · exact hraise _ _ (hsettle _ _ hnow) hs (by cases p <;> simp [wrError])
  have hreadAll : ∀ p, P (s.readParam p) := by
    intro p
    refine hcommand _ _ fun hs hp => ?_
    have hop : s.status.phase = .opened ∧ (s.status.st p).wasWritten = true := by
      simpa [State.isOpen] using hp
    refine hask _ _ hs hop fun a => ?_
    rcases afterRead_cases p a { s.tick with waiting := none } with
      ⟨_, hv, h⟩ | ⟨_, _, h⟩ | ⟨_, h⟩ <;> rw [h]
    · exact (hread p _ hop.1 hop.2).2 hv
    · exact (hread p _ hop.1 hop.2).1
    · exact hraise _ _ hnow hs (by cases p <;> simp [rdError])
  have hillegal : P s.illegal :=
    hcommand _ _ fun hs _ => hraise _ _ h0 hs (by simp)
  cases i with
  | wrmode => exact hwriteAll _
  | wrbpw => exact hwriteAll _
  | wrspd => exact hwriteAll _
  | rdmode => exact hreadAll _
  | rdbpw => exact hreadAll _
  | rdspd => exact hreadAll _
  | reservedOp0 _ => exact hillegal
  | reservedOpE _ => exact hillegal
  | reservedOpF _ => exact hillegal
  | dacwr _ _ _ _ => exact hdac _ _ h0
  | ldcfg =>
    rw [effect_ldcfg]
    exact hcommand _ _ fun _ hp => hcfg (by simpa using hp)
  | ldd _ =>
    rw [effect_ldd]
    exact hcommand _ _ fun _ _ => hdreg _ _ h0
  | close =>
    rw [effect_close]
    exact hcommand _ _ fun _ hp => hclose (by simpa [State.isOpen] using hp)
  | openDev =>
    rw [effect_openDev]
    refine hcommand _ _ fun hs hp => ?_
    have hop : s.status.phase = .idle ∨ s.status.phase = .closed := by simpa using hp
    refine hask _ _ hs ⟨hop, rfl⟩ fun a => ?_
    rcases afterOpen_cases a { s.tick with waiting := none } with ⟨_, h⟩ | ⟨_, h⟩ <;> rw [h]
    · exact hopen a hop
    · exact hraise _ _ (hsettle _ _ hnow) hs (by simp)
  | conv =>
    rw [effect_conv]
    refine hcommand _ _ fun hs _ => ?_
    rcases convert_cases s with ⟨_, h⟩ | ⟨c, _, h⟩ <;> rw [h]
    · exact hraise _ _ h0 hs (by simp)
    · exact hdreg _ _ h0
  | enc ch buf g2x =>
    rw [effect_enc]
    refine hcommand _ _ fun hs _ => ?_
    rcases encode_cases s ch buf g2x with ⟨_, h⟩ | ⟨d, _, h⟩ <;> rw [h]
    · exact hraise _ _ h0 hs (by simp)
    · exact htxw _ _ _ _
  | xfer =>
    rw [effect_xfer]
    refine hcommand _ _ fun hs hp => ?_
    have hop : s.status.phase = .opened ∧ s.status.allVerified = true := by
      simpa [State.isOpen] using hp
    rcases transfer_cases s with ⟨_, h⟩ | ⟨w, _, _, h⟩ | ⟨w, hw, hb, h⟩ <;> rw [h]
    · exact hraise _ _ h0 hs (by simp)
    · exact hraise _ _ h0 hs (by simp)
    · refine hask _ _ hs ⟨hop.1, hop.2, hb, hw, rfl⟩ fun a => ?_
      rcases afterXfer_cases w a { s.tick with waiting := none } with ⟨_, h⟩ | ⟨_, h⟩ <;> rw [h]
      · exact hraise _ _ (hdac _ _ (hxfer w .short none none hw hb hop.1)) (by simp [hs])
          (by simp)
      · obtain ⟨v, hv⟩ := dacAfter_eq { ({ s.tick with waiting := none } : State).logWire
          (({ s.tick with waiting := none } : State).entry w .ok (some a.miso)) with
            rxw := some a.miso } w a
        rw [State.transferOk, hv]
        exact hdac _ _ (hxfer w .ok (some a.miso) (some a.miso) hw hb hop.1)

/-- A property that every elementary update keeps is kept by a step. -/
theorem step_preserves (P : State → Prop) {s t : State} (hstep : step s = .next t) (h0 : P s)
    (hadvance : ∀ u, P u → P u.advance)
    (hhost : ∀ u l r, P u → P { u with host := l, hostReads := r })
    (hlatch : ∀ u w, P u → P (u.latch w))
    (hport : ∀ u c v, P u → P { u with cfgIn := c, vin := v })
    (htick : ∀ u, P u → P u.tick)
    (hcut : ∀ u r, u.status.phase = .idle → P u → P (u.cutCtrl r))
    (hkill : ∀ u, P u → P u.killed)
    (hraise : ∀ u e, P u → u.status.phase ≠ .stopped → e ≠ .none → P (u.raise e))
    (hreset : s.arrival = some .reset → P s.advance → P s.advance.resetBlock)
    (hend : s.status.phase ≠ .stopped → P s.advance → P s.advance.endRun)
    (heffect : ∀ i u, u.status = s.status → u.waiting = s.waiting → u.cfg = s.cfg →
      u.ctrl = s.ctrl → u.wireLog = s.wireLog → s.status.phase ≠ .stopped → P u →
      P (effect i u)) : P t := by
  have h1 : P s.advance := hadvance _ h0
  have hpresent : ∀ c, P (s.advance.present c) := by
    intro c
    unfold State.present
    dsimp only
    split
    · exact hport _ _ _ h1
    · exact hport _ _ _ h1
    · exact hport _ _ _ (htick _ (hport _ _ s.vin h1))
  have hafter : ∀ u, P u → P u.afterCommand := by
    intro u hu
    unfold State.afterCommand
    split
    · split
      · exact hhost u _ _ hu
      · exact hu
    · exact hu
  have hcutOpen : s.advance.status.phase = .idle → P s.advance.cutOpen := by
    intro hp
    unfold State.cutOpen
    split
    · exact hcut _ _ hp h1
    · exact h1
  rcases step_cases s with ⟨ha, h⟩ | ⟨ha, h⟩ | ⟨ha, h⟩ | ⟨w, ha, h⟩ | ⟨ha, h⟩ |
    ⟨ha, hs, r, hw, h⟩ | ⟨ha, hs, hw, h⟩ | ⟨ha, hs, hw, c, i, hd, h⟩ | ⟨ha, hs, hw, c, h⟩ <;>
    rw [h] at hstep <;> cases hstep
  · exact hkill _ h1
  · rcases usageStopped_cases s.advance with ⟨hp, h⟩ | ⟨hp, h⟩ <;> rw [h]
    · exact hraise _ _ (hcutOpen hp) (by simp at hp; simp [hp]) (by simp)
    · exact h1
  · exact hreset ha h1
  · exact hlatch _ _ h1
  · exact h1
  · exact hafter _ (heffect _ _ rfl rfl rfl rfl rfl hs h1)
  · exact hend hs h1
  · exact hafter _ (heffect _ _ (by simp) (by simp) (by simp) (by simp) (by simp) hs (hpresent c))
  · rw [State.illegal, command_run (by simpa using hs) rfl]
    exact hraise _ _ (hpresent c) (by simpa using hs) (by simp)

/-- What a kill leaves of the whole state, once it is taken. -/
theorem killed_eq {s : State} (h : s.status.phase ≠ .stopped) :
    s.killed = { s.killWaiting with
      status := { s.status with killed := true, phase := .stopped }
      ctrl := if s.status.phase = .opened then { s.killWaiting.ctrl with held := false }
        else s.killWaiting.ctrl
      exit := some Config.killStatus, waiting := none } := by
  rw [killed_running h]
  unfold State.releaseIfOpen
  simp only [killWaiting_status]
  split <;> simp [Status.kill]

@[simp] theorem killWaiting_held (s : State) : s.killWaiting.ctrl.held = s.ctrl.held := by
  unfold State.killWaiting
  split <;> rfl

end Machine
end Sys2Proof
end

