-- ==== Sys2Proof/Laws/PerInstr.lean ====
section
/-!
SUPPORT. The family Pattern, one lemma per constructor: the word of an instruction carries the fixed
bits that its row of spec/opcode_table.json gives it.
-/

namespace Sys2Proof
namespace Laws

/-- A reserved operation's word has its OP in the top four bits. -/
theorem reservedOf_mask (op : BitVec 4) (low : BitVec 28) :
    reservedOf op low &&& 0xF0000000#32 = op.setWidth 32 <<< 28 := by
  ext i hi
  simp only [reservedOf, BitVec.getElem_and, BitVec.getElem_setWidth, BitVec.getLsbD_append]
  interval_cases i <;> simp

namespace Pattern

/-- The fixed bits of a row of the opcode table: its mask and its match. -/
def row : Instr → Word × Word
  | .ldcfg => (0xFFFFFFFF#32, 0x10000000#32)
  | .openDev => (0xFFFFFFFF#32, 0x20000000#32)
  | .wrmode => (0xFFFFFFFF#32, 0x30000000#32)
  | .rdmode => (0xFFFFFFFF#32, 0x40000000#32)
  | .wrbpw => (0xFFFFFFFF#32, 0x50000000#32)
  | .rdbpw => (0xFFFFFFFF#32, 0x60000000#32)
  | .wrspd => (0xFFFFFFFF#32, 0x70000000#32)
  | .rdspd => (0xFFFFFFFF#32, 0x80000000#32)
  | .conv => (0xFFFFFFFF#32, 0x90000000#32)
  | .ldd _ => (0xFFFF0000#32, 0xA0000000#32)
  | .enc _ _ _ => (0xFFFFFFF8#32, 0xB0000000#32)
  | .xfer => (0xFFFFFFFF#32, 0xC0000000#32)
  | .close => (0xFFFFFFFF#32, 0xD0000000#32)
  | .reservedOp0 _ => (0xF0000000#32, 0x00000000#32)
  | .reservedOpE _ => (0xF0000000#32, 0xE0000000#32)
  | .reservedOpF _ => (0xF0000000#32, 0xF0000000#32)
  | .dacwr _ _ _ _ => (0x1003#32, 0x1000#32)

/-- The bits of a word of either format, from bit 0. -/
def bits : CodeWord → Word
  | .hc32 w => w
  | .cw16 w => w.setWidth 32

/-- The encoding agrees with the instruction's row: masked, it is the row's match. -/
def Statement (i : Instr) : Prop := bits (encode i) &&& (row i).1 = (row i).2

theorem ldcfg : Statement .ldcfg := by unfold Statement; decide
theorem openDev : Statement .openDev := by unfold Statement; decide
theorem wrmode : Statement .wrmode := by unfold Statement; decide
theorem rdmode : Statement .rdmode := by unfold Statement; decide
theorem wrbpw : Statement .wrbpw := by unfold Statement; decide
theorem rdbpw : Statement .rdbpw := by unfold Statement; decide
theorem wrspd : Statement .wrspd := by unfold Statement; decide
theorem rdspd : Statement .rdspd := by unfold Statement; decide
theorem conv : Statement .conv := by unfold Statement; decide

theorem ldd (imm : Half) : Statement (.ldd imm) := by
  ext i hi
  simp only [row, bits, encode, hc32Of, BitVec.getElem_and, BitVec.getElem_setWidth,
    BitVec.getLsbD_append]
  interval_cases i <;> simp

theorem enc (ch buf g2x : Bool) : Statement (.enc ch buf g2x) := by
  unfold Statement
  revert ch buf g2x
  decide

theorem xfer : Statement .xfer := by unfold Statement; decide
theorem close : Statement .close := by unfold Statement; decide

theorem reservedOp0 (low : BitVec 28) : Statement (.reservedOp0 low) := reservedOf_mask _ low
theorem reservedOpE (low : BitVec 28) : Statement (.reservedOpE low) := reservedOf_mask _ low
theorem reservedOpF (low : BitVec 28) : Statement (.reservedOpF low) := reservedOf_mask _ low

theorem dacwr (ch buf gaN : Bool) (data : BitVec 10) : Statement (.dacwr ch buf gaN data) := by
  ext i hi
  simp only [row, bits, encode, cw16Of, BitVec.getElem_and, BitVec.getElem_setWidth,
    BitVec.getLsbD_setWidth, BitVec.getLsbD_append]
  interval_cases i <;> simp

end Pattern
end Laws
end Sys2Proof
end

