-- ==== Sys2Proof/Machine/Assembler.lean ====
section
/-!
DEFINITION. The assembler of 30_encoding R94: one command per line, from its characters to its
HC32 word.
-/

namespace Sys2Proof
namespace Machine

/-- Drop the comment of a line: everything from the first semicolon (30_encoding R94). -/
def stripComment : List Char → List Char
  | [] => []
  | c :: cs => if c = ';' then [] else c :: stripComment cs

/-- Whether a character parts two words of a line. -/
def isSeparator (c : Char) : Bool := c = ' ' || c = ',' || c = '\t'

/-- The words of a line, each without separators; `cur` is the word being read, reversed. -/
def splitWords : List Char → List Char → List (List Char)
  | cur, [] => if cur = [] then [] else [cur.reverse]
  | cur, c :: cs =>
    if isSeparator c then
      (if cur = [] then splitWords [] cs else cur.reverse :: splitWords [] cs)
    else splitWords (c :: cur) cs

/-- A digit in a base up to 16. -/
def digitValue (base : Nat) (c : Char) : Option Nat :=
  let n := c.toNat
  let v :=
    if 48 ≤ n ∧ n ≤ 57 then some (n - 48)
    else if 97 ≤ n ∧ n ≤ 102 then some (n - 87)
    else if 65 ≤ n ∧ n ≤ 70 then some (n - 55)
    else none
  v.filter (fun k => k < base)

/-- A number in a base, the digits most significant first, onto what was read before. -/
def numberFrom (base : Nat) : Nat → List Char → Option Nat
  | acc, [] => some acc
  | acc, c :: cs =>
    match digitValue base c with
    | some d => numberFrom base (acc * base + d) cs
    | none => none

/-- An unsigned number, decimal or 0x hexadecimal, with at least one digit (R94). -/
def parseNumber : List Char → Option Nat
  | [] => none
  | ['0', 'x'] => none
  | '0' :: 'x' :: cs => numberFrom 16 0 cs
  | cs => numberFrom 10 0 cs

/-- A flag's value: 0 or 1 (R94). -/
def parseBit : List Char → Option Bool
  | ['0'] => some false
  | ['1'] => some true
  | _ => none

/-- The flags of ENC, each at most once and in any order (R94, log 14). -/
def parseFlags : AsmLine → List (List Char) → Option AsmLine
  | l, [] => some l
  | .enc none b g, ('c' :: 'h' :: '=' :: v) :: rest =>
    match parseBit v with
    | some x => parseFlags (.enc (some x) b g) rest
    | none => none
  | .enc c none g, ('b' :: 'u' :: 'f' :: '=' :: v) :: rest =>
    match parseBit v with
    | some x => parseFlags (.enc c (some x) g) rest
    | none => none
  | .enc c b none, ('g' :: '2' :: 'x' :: '=' :: v) :: rest =>
    match parseBit v with
    | some x => parseFlags (.enc c b (some x)) rest
    | none => none
  | _, _ => none

/-- The eleven mnemonics that take no operand (R94). -/
def plainMnemonics : List (List Char × Instr) :=
  [(['L', 'D', 'C', 'F', 'G'], .ldcfg), (['O', 'P', 'E', 'N'], .openDev),
    (['W', 'R', 'M', 'O', 'D', 'E'], .wrmode), (['R', 'D', 'M', 'O', 'D', 'E'], .rdmode),
    (['W', 'R', 'B', 'P', 'W'], .wrbpw), (['R', 'D', 'B', 'P', 'W'], .rdbpw),
    (['W', 'R', 'S', 'P', 'D'], .wrspd), (['R', 'D', 'S', 'P', 'D'], .rdspd),
    (['C', 'O', 'N', 'V'], .conv), (['X', 'F', 'E', 'R'], .xfer),
    (['C', 'L', 'O', 'S', 'E'], .close)]

/-- A line's words as an assembler line (R94). -/
def parseWords : List (List Char) → Option AsmLine
  | [m] =>
    if m = ['E', 'N', 'C'] then some (.enc none none none)
    else (plainMnemonics.lookup m).map AsmLine.plain
  | m :: w :: rest =>
    if m = ['L', 'D', 'D'] then
      match w, rest with
      | '#' :: n, [] => (parseNumber n).map AsmLine.ldd
      | _, _ => none
    else if m = ['E', 'N', 'C'] then parseFlags (.enc none none none) (w :: rest)
    else none
  | [] => none

/-- The instruction of an assembler line: an omitted flag is 0; a line that is not well formed is an
assembly error (R94). -/
def asmInstr (l : AsmLine) : Option Instr :=
  if l.wf then
    match l with
    | .plain i => some i
    | .ldd n => some (.ldd (BitVec.ofNat 16 n))
    | .enc c b g => some (.enc (c.getD false) (b.getD false) (g.getD false))
  else none

/-- Assemble one line that holds a command (R94); none is an assembly error. -/
def assembleLine (line : List Char) : Option CodeWord :=
  (parseWords (splitWords [] (stripComment line))).bind (fun l => (asmInstr l).map encode)

end Machine
end Sys2Proof
end

