-- ==== Sys2Proof/Tests/Slice0.lean ====
section
/-!
SUPPORT. Tests: ill-formed syntax is refused, words written out from the spec's encodings decode to
their instruction, one or two vectors of 95_test_vectors per instruction, and for every obligation
with hypotheses a concrete state and operands that meet them. Each test names its source.
-/

namespace Sys2Proof
namespace Tests

open Sys2Proof.Machine

/-! ### Helpers -/

/-- The configuration C0 of 95_test_vectors, with a path of its own. -/
def link : LinkConfig where
  path := "P0"
  mode := 0x00#8
  bpw := 16#8
  speed := 1000000#32
  delay := 0#16

/-- A controller answer: OK with a value, and for a transfer a count and a received word. -/
def answer (value : Word) (count : Int) (miso : Half) : Draw where
  answered := true
  ok := true
  value := value
  count := count
  miso := miso
  dacTakes := none
  volts := 0#64
  setMode := 0x55#8
  setBpw := 9#8
  setSpeed := 7#32

/-- A controller that fails. -/
def refusal : Draw := { answer 0#32 (-1) 0#16 with ok := false }

/-- A controller that does not answer. -/
def silence : Draw := { answer 0#32 0 0#16 with answered := false }

/-- A state in a phase with the three ST fields and the draws to come, at whose next step nothing
arrives; DREG holds 512 and TXW 0x3800. -/
def start (p : Phase) (m b v : VerState) (ds : List Draw) : State :=
  { State.reset with
    cfg := link, cfgIn := { link with speed := 2#32 }
    status := { resetStatus with phase := p, modeSt := m, bpwSt := b, spdSt := v }
    ctrl := { held := decide (p = .opened), mode := 0x11#8, bpw := 5#8, speed := 3#32,
              wroteMode := some 0x00#8, wroteBpw := some 16#8, wroteSpeed := some 1000000#32 }
    inbox := [none]
    rbMode := some 0x00#8, rbBpw := some 16#8, rbSpeed := some 1000000#32
    dreg := some 512#16, txw := some 0x3800#16, draws := ds }

/-- IDLE, with no answer ready. -/
def idle : State := start .idle .none .none .none []

/-- OPEN with the ST fields 0. -/
def justOpen (ds : List Draw) : State := start .opened .none .none .none ds

/-- OPEN with all three parameters written. -/
def allWritten (ds : List Draw) : State := start .opened .written .written .written ds

/-- OPEN with all three parameters verified. -/
def ready (ds : List Draw) : State := start .opened .verified .verified .verified ds

/-- STOPPED by an error. -/
def halted : State := idle.raise .sequence

/-- What one instruction leaves, seen through a function of the state. -/
def after {α : Type} (i : Instr) (s : State) (f : State → α) : Option α :=
  match exec i s with
  | .next t => some (f t)
  | _ => none

/-- What one step leaves, seen through a function of the state. -/
def stepped {α : Type} (s : State) (f : State → α) : Option α :=
  match step s with
  | .next t => some (f t)
  | _ => none

/-- STATUS as a word. -/
def statusWord (s : State) : Word := s.status.word

/-! ### Well-formedness: each check refuses something -/

theorem test_wf_dacwr_is_no_command : Instr.wfOn .cmd (.dacwr true false true 5#10) = false := by
  decide
theorem test_wf_command_is_no_dac_word : Instr.wfOn .dac .ldcfg = false := by decide
theorem test_wf_command : Instr.wfOn .cmd (.ldd 7#16) = true := by decide
theorem test_wf_reserved_is_no_operation : Instr.isCommand (.reservedOp0 0#28) = false := by decide
theorem test_wf_number_too_large : AsmLine.wf (.ldd 65536) = false := by decide
theorem test_wf_operand_missing : AsmLine.wf (.plain (.ldd 0#16)) = false := by decide

/-! ### Decoding: words from the encodings of 30_encoding R80 to R90, 95_test_vectors 2.6 -/

theorem test_decode_ldcfg : decodeHc32 0b00010000000000000000000000000000#32 = .ok .ldcfg := by
  decide
theorem test_decode_openDev :
    decodeHc32 0b00100000000000000000000000000000#32 = .ok .openDev := by decide
theorem test_decode_wrmode : decodeHc32 0b00110000000000000000000000000000#32 = .ok .wrmode := by
  decide
theorem test_decode_rdmode : decodeHc32 0b01000000000000000000000000000000#32 = .ok .rdmode := by
  decide
theorem test_decode_wrbpw : decodeHc32 0b01010000000000000000000000000000#32 = .ok .wrbpw := by
  decide
theorem test_decode_rdbpw : decodeHc32 0b01100000000000000000000000000000#32 = .ok .rdbpw := by
  decide
theorem test_decode_wrspd : decodeHc32 0b01110000000000000000000000000000#32 = .ok .wrspd := by
  decide
theorem test_decode_rdspd : decodeHc32 0b10000000000000000000000000000000#32 = .ok .rdspd := by
  decide
theorem test_decode_conv : decodeHc32 0b10010000000000000000000000000000#32 = .ok .conv := by
  decide
theorem test_decode_ldd :
    decodeHc32 0b10100000000000000001001000110100#32 = .ok (.ldd 0x1234#16) := by decide
theorem test_decode_enc :
    decodeHc32 0b10110000000000000000000000000110#32 = .ok (.enc true true false) := by decide
theorem test_decode_xfer : decodeHc32 0b11000000000000000000000000000000#32 = .ok .xfer := by
  decide
theorem test_decode_close : decodeHc32 0b11010000000000000000000000000000#32 = .ok .close := by
  decide
theorem test_decode_reservedOp0 :
    decodeHc32 0b00000000000000000000000000000001#32 = .ok (.reservedOp0 1#28) := by decide
theorem test_decode_reservedOpE :
    decodeHc32 0b11100000000000000000000000000000#32 = .ok (.reservedOpE 0#28) := by decide
theorem test_decode_reservedOpF :
    decodeHc32 0b11111111111111111111111111111111#32 = .ok (.reservedOpF 0xFFFFFFF#28) := by decide
theorem test_decode_dacwr :
    decodeCw16 0b1101100000000100#16 = .ok (.dacwr true true false 0b1000000001#10) := by decide
theorem test_decode_reserved_bits : decodeHc32 0xA0010000#32 = .error .reservedBits := by decide
theorem test_decode_immediate : decodeHc32 0x1000FFFF#32 = .error .immediateBits := by decide
theorem test_decode_enc_immediate : decodeHc32 0xB0008000#32 = .error .immediateBits := by decide
theorem test_decode_shutdown_word : decodeCw16 0x2000#16 = .error .notCommandWord := by decide

/-! ### The assembler (30_encoding R94) -/

theorem test_assemble_enc :
    assembleLine ['E', 'N', 'C', ' ', 'c', 'h', '=', '1', ',', ' ', 'g', '2', 'x', '=', '1', ' ',
      ';', 'x'] = some (.hc32 0xB0000005#32) := by decide
theorem test_assemble_ldd_range :
    assembleLine ['L', 'D', 'D', ' ', '#', '6', '5', '5', '3', '6'] = none := by decide

/-! ### The placed word -/

theorem test_table_word : decodeTableWord 32 0xB0000005 = some (.enc true false true) := by decide
theorem test_placed_word_runs :
    stepped (State.reset.withFetchWord 32 0xA0000200) State.dreg = some (some 0x0200#16) := by
  decide

/-! ### Instructions: the vectors of 95_test_vectors -/

/-- V-CFG-1, with the CFG_IN of this file. -/
theorem test_ldcfg : after .ldcfg idle (fun t => t.cfg.speed) = some 2#32 := by decide
/-- V-CFG-3. -/
theorem test_ldcfg_closed :
    after .ldcfg (start .closed .none .none .none []) statusWord = some 0x00100203#32 := by decide
/-- V-CFG-4. -/
theorem test_open :
    after .openDev (start .idle .none .none .none [answer 0 0 0]) statusWord =
      some 0x00000002#32 := by decide
/-- V-CFG-5. -/
theorem test_open_fails :
    after .openDev (start .idle .none .none .none [refusal]) statusWord = some 0x00010003#32 := by
  decide
/-- V-CFG-7. -/
theorem test_wrmode :
    after .wrmode (justOpen [answer 0 0 0]) statusWord = some 0x00000006#32 := by decide
/-- V-CFG-8. -/
theorem test_wrmode_fails : after .wrmode (justOpen [refusal]) statusWord = some 0x00020003#32 := by
  decide
/-- V-CFG-11. -/
theorem test_rdmode_mismatch :
    after .rdmode (start .opened .written .none .none [answer 0x01 0 0])
      (fun t => (statusWord t, t.rbMode)) = some (0x00040007#32, some 0x01#8) := by decide
/-- V-CFG-12. -/
theorem test_rdmode_fails :
    after .rdmode { start .opened .written .none .none [refusal] with rbMode := none }
      (fun t => (statusWord t, t.rbMode)) = some (0x00030007#32, none) := by decide
/-- V-CFG-15. -/
theorem test_wrbpw :
    after .wrbpw (start .opened .verified .none .none [answer 0 0 0]) statusWord =
      some 0x0000001A#32 := by decide
/-- V-CFG-16. -/
theorem test_rdbpw_mismatch :
    after .rdbpw (start .opened .verified .written .none [answer 8 0 0])
      (fun t => (statusWord t, t.rbBpw)) = some (0x0007001B#32, some 8#8) := by decide
/-- V-CFG-19. -/
theorem test_wrspd :
    after .wrspd (start .opened .verified .verified .none [answer 0 0 0]) statusWord =
      some 0x0000006A#32 := by decide
/-- V-CFG-20. -/
theorem test_rdspd :
    after .rdspd (start .opened .verified .verified .written [answer 1000000 0 0]) statusWord =
      some 0x000000AA#32 := by decide
/-- V-CFG-21. -/
theorem test_rdspd_mismatch :
    after .rdspd (start .opened .verified .verified .written [answer 999936 0 0])
      (fun t => (statusWord t, t.rbSpeed)) = some (0x000A006B#32, some 999936#32) := by decide
/-- V-CFG-24. -/
theorem test_close : after .close (ready []) statusWord = some 0x00000001#32 := by decide
/-- V-CFG-25. -/
theorem test_close_idle : after .close idle statusWord = some 0x00100203#32 := by decide
/-- V-CONV-20: VIN = 319.9999. -/
theorem test_conv_largest :
    after .conv { idle with vin := 0x4073FFFF97247454#64 } State.dreg = some (some 65535#16) := by
  decide +kernel
/-- V-CONV-21: VIN = -0.0048828125, so q = -1. -/
theorem test_conv_range :
    after .conv { idle with vin := 0xBF74000000000000#64 } (fun t => (statusWord t, t.dreg)) =
      some (0x000D0203#32, some 512#16) := by decide +kernel
/-- V-LDD-4. -/
theorem test_ldd_unmasked : after (.ldd 0x0400#16) idle State.dreg = some (some 0x0400#16) := by
  decide
/-- V-ENC-12. -/
theorem test_enc : after (.enc true false true) idle State.txw = some (some 0x9800#16) := by decide
/-- V-ENC-14. -/
theorem test_enc_high_bits :
    after (.enc true false false) { idle with dreg := some 0x1234#16 } State.txw =
      some (some 0xB8D0#16) := by decide
/-- V-XF-3. -/
theorem test_xfer :
    after .xfer (ready [answer 0 3 0x1234]) (fun t => (t.rxw, t.echo, t.wireLog.length)) =
      some (some 0x1234#16, some 0x08D#10, 1) := by decide
/-- V-XF-5. -/
theorem test_xfer_error_return :
    after .xfer (ready [answer 0 (-1) 0]) (fun t => (statusWord t, t.rxw)) =
      some (0x000B00AB#32, none) := by decide
/-- V-ERR-1, for the three reserved operations. -/
theorem test_reservedOpE :
    after (.reservedOpE 0#28) idle statusWord = some 0x000E0203#32 := by decide
theorem test_reservedOp0 :
    after (.reservedOp0 0#28) idle statusWord = some 0x000E0203#32 := by decide
theorem test_reservedOpF :
    after (.reservedOpF 0xFFFFFFF#28) idle statusWord = some 0x000E0203#32 := by decide
/-- The word of V-ENC-12 at the DAC. -/
theorem test_dacwr :
    after (.dacwr true false false 512#10) idle State.dacWord = some 0x9800#16 := by decide

/-! ### The host, the kill and the wire -/

/-- V-ERR-4: in STOPPED nothing is executed. -/
theorem test_stopped : after (.ldd 7#16) halted State.dreg = some (some 512#16) := by decide
/-- V-ERR-5. -/
theorem test_usage_stop :
    stepped { idle with inbox := [some .usageStop] } (fun t => (statusWord t, t.exit)) =
      some (0x000C0003#32, some 1#8) := by decide
/-- R229 asks for the phase alone: in IDLE while an OPEN waits. -/
theorem test_usage_stop_waiting :
    stepped { idle with inbox := [some .usageStop], waiting := some (.openDev "P0") }
      (fun t => (statusWord t, t.exit, decide (t.waiting = none))) =
      some (0x000C0003#32, some 1#8, true) := by decide
/-- R16: a word at the DAC outside an XFER has no effect, and within one it is latched. -/
theorem test_dac_word_outside :
    stepped { ready [] with inbox := [some (.dacWord 0x3ABC)], dacWord := 0x3004 } State.dacWord =
      some 0x3004#16 := by decide
theorem test_dac_word_within :
    stepped { ready [] with
      inbox := [some (.dacWord 0x3ABC)], waiting := some (.xfer (descOf link 0x3800)) }
      State.dacWord = some 0x3ABC#16 := by decide
/-- R222: the reads of an iteration stand with RDSPD and XFER, and the words are R220 to R222's. -/
theorem test_session_iteration :
    (sessionIter .prompt false true false).map (fun c => (c.word, c.reads)) =
      [(0x20000000#32, []), (0x30000000#32, []), (0x40000000#32, []), (0x50000000#32, []),
        (0x60000000#32, []), (0x70000000#32, []),
        (0x80000000#32, [.cfgMode, .cfgBpw, .cfgSpeed, .cfgDelay]), (0x90000000#32, []),
        (0xB0000002#32, []), (0xC0000000#32, [.echo]), (0xD0000000#32, [])] := by decide
/-- R7: the host runs SESSION by default. -/
theorem test_variant_default :
    ((State.reset.startHost [] false false false).host.map HostProgram.loopTo) =
      some (some 1) := by decide
/-- V-ERR-6. -/
theorem test_usage_stop_ignored :
    stepped { justOpen [] with inbox := [some .usageStop] } statusWord = some 0x00000002#32 := by decide
/-- V-XF-14: the kill while a transfer waits. -/
theorem test_kill_transfer :
    stepped { ready [silence] with inbox := [some .kill], waiting := some (.xfer (descOf link 0x3800)) }
      (fun t => (statusWord t, t.rxw, t.wireLog.map (fun e => (e.word, e.outcome)))) =
      some (0x000001AB#32, none, [(0x3800#16, .killed)]) := by decide
/-- V-ERR-10. -/
theorem test_end :
    stepped { ready [] with host := some { cmds := [], hpc := 0, loopTo := none } }
      (fun t => (statusWord t, t.exit, t.ctrl.held)) =
      some (0x000000AB#32, some 0#8, false) := by decide
/-- The MOSI bits of 0x3800, LSB first (95_test_vectors 2.5). -/
theorem test_wire_lsb :
    wireBits true 0x3800#16 = [false, false, false, false, false, false, false, false, false, false,
      false, true, true, true, false, false] := by decide
/-- The MISO bits of 95_test_vectors 2.5, LSB first. -/
theorem test_wire_word :
    wireWord true [false, false, true, true] = 0x000C#16 := by decide

/-! ### Witnesses: for each obligation with hypotheses, a state and operands that meet them -/

theorem witness_EncodeOfDecode :
    decode (.hc32 0xB0000005#32) = .ok (.enc true false true) ∧
      decode (.cw16 0x9800#16) = .ok (.dacwr true false false 0x200#10) := by decide

theorem witness_LddLoadsImmediate : idle.status.phase ≠ .stopped := by decide

theorem witness_EncPacksWord : idle.status.phase ≠ .stopped ∧ idle.dreg = some 512#16 := by decide

theorem witness_EncPacksWord_unwritten :
    State.reset.status.phase ≠ .stopped ∧ State.reset.dreg = none := by decide

theorem witness_EncodedBits :
    (ready []).status.phase ≠ .stopped ∧ (ready []).dreg = some 512#16 := by decide

theorem witness_EncWrapsModulo1024 :
    { idle with dreg := some 1025#16 }.status.phase ≠ .stopped ∧
      { idle with dreg := some 1#16 }.status.phase ≠ .stopped ∧
      { idle with dreg := some 1025#16 }.dreg = some 1025#16 ∧
      { idle with dreg := some 1#16 }.dreg = some 1#16 ∧
      (1025#16).toNat % 1024 = (1#16).toNat % 1024 := by decide

theorem witness_EncoderBijective :
    (1023#16).toNat < 1024 ∧ encWord true false true 1023#16 = encWord true false true 1023#16 ∧
      (0xDFFC#16).getLsbD 12 = true ∧ (0xDFFC#16).extractLsb' 0 2 = 0#2 := by decide

/-- V-CONV-20: the largest code. -/
theorem witness_ConvTruncatesQuotient :
    convQuotient 0x4073FFFF97247454#64 Config.defaultVref = .fin false 9007196439991226 (-37) ∧
      -1 < finiteValue false 9007196439991226 (-37) ∧
      finiteValue false 9007196439991226 (-37) < 65536 := by
  refine ⟨by decide +kernel, ?_, ?_⟩ <;> norm_num [finiteValue]

/-- V-CONV-10: -1 < q < 0. -/
theorem witness_ConvTruncatesQuotient_negative :
    convQuotient 0xBF73FD0D0678C005#64 Config.defaultVref = .fin true 9002011107970261 (-53) ∧
      -1 < finiteValue true 9002011107970261 (-53) ∧
      finiteValue true 9002011107970261 (-53) < 0 := by
  refine ⟨by decide +kernel, ?_, ?_⟩ <;> norm_num [finiteValue]

/-- V-CONV-21 and V-CONV-23: q = -1 and q = 65536. -/
theorem witness_ConvTruncatesQuotient_outside :
    (convQuotient 0xBF74000000000000#64 Config.defaultVref = .fin true 4503599627370496 (-52) ∧
      ¬ -1 < finiteValue true 4503599627370496 (-52)) ∧
    (convQuotient 0x4074000000000000#64 Config.defaultVref = .fin false 4503599627370496 (-36) ∧
      ¬ finiteValue false 4503599627370496 (-36) < 65536) := by
  refine ⟨⟨by decide +kernel, ?_⟩, ⟨by decide +kernel, ?_⟩⟩ <;> norm_num [finiteValue]

/-- V-CONV-24, V-CONV-26 and V-CONV-32: the infinities and not-a-number. -/
theorem witness_ConvTruncatesQuotient_special :
    convQuotient 0x7FE1CCF385EBC8A0#64 Config.defaultVref = .inf false ∧
      convQuotient 0xFFF0000000000000#64 Config.defaultVref = .inf true ∧
      convQuotient 0x0000000000000000#64 0x0000000000000000#64 = .nan := by decide +kernel

/-- A ratio that is rounded, and a tie. -/
theorem witness_RoundingIsNearestEven :
    0 < 3 ∧ roundRatio false 1 3 = .fin false 6004799503160661 (-54) ∧
      roundRatio false 9007199254740993 1 = .fin false 4503599627370496 1 ∧
      |((9007199254740993 : Nat) : ℚ) / (1 : Nat) -
        ((4503599627370496 : Nat) : ℚ) * (2 : ℚ) ^ (1 : Int)| = (2 : ℚ) ^ (1 : Int) / 2 := by
  refine ⟨by decide, by decide +kernel, by decide +kernel, ?_⟩
  norm_num

/-- The bottom of a binade: 2^53 - 1/4 is rounded to 2^53, 2^53 - 1/2 by its even last bit. -/
theorem witness_RoundingIsNearestEven_binade :
    roundRatio false 36028797018963967 4 = .fin false 4503599627370496 1 ∧
      roundRatio false 18014398509481983 2 = .fin false 4503599627370496 1 := by decide +kernel

/-- From 2^1024 - 2^970 on, and not below: the boundary and one less. -/
theorem witness_RoundingIsNearestEven_infinite :
    roundRatio true ((1 <<< 1024) - (1 <<< 970)) 1 = .inf true ∧
      roundRatio true ((1 <<< 1024) - (1 <<< 970) - 1) 1 = .fin true 9007199254740991 971 := by
  decide +kernel

theorem witness_Times1024IsExact :
    f64OfBits Config.defaultVref = .fin false 5629499534213120 (-50) ∧
      ((5629499534213120 : Nat) : ℚ) * (2 : ℚ) ^ (-50 : Int) * 1024 < (2 : ℚ) ^ (1024 : Int) := by
  refine ⟨by decide +kernel, ?_⟩
  calc ((5629499534213120 : Nat) : ℚ) * (2 : ℚ) ^ (-50 : Int) * 1024
      < (2 : ℚ) ^ (13 : Int) := by norm_num
    _ ≤ (2 : ℚ) ^ (1024 : Int) := zpow_le_zpow_right₀ (by norm_num) (by norm_num)

/-- The least power of 2 whose product overflows, negative. -/
theorem witness_Times1024IsExact_overflow :
    f64OfBits 0xFF50000000000000#64 = .fin true 4503599627370496 962 ∧
      (2 : ℚ) ^ (1024 : Int) ≤
        ((4503599627370496 : Nat) : ℚ) * (2 : ℚ) ^ (962 : Int) * 1024 := by
  refine ⟨by decide +kernel, le_of_eq ?_⟩
  rw [show ((4503599627370496 : Nat) : ℚ) = (2 : ℚ) ^ (52 : Int) by norm_num,
    show (1024 : ℚ) = (2 : ℚ) ^ (10 : Int) by norm_num, ← zpow_add₀ (by norm_num),
    ← zpow_add₀ (by norm_num)]
  rfl

/-- The fields of a finite number below overflow (5.0), of one whose product overflows, of a
subnormal, of -0.0, of an infinity and of not-a-number. -/
theorem witness_QuotientIsRoundedRatio :
    (rawExponent Config.defaultVref = 1025 ∧ rawFraction Config.defaultVref = 0x4000000000000 ∧
      rawNegative Config.defaultVref = false) ∧
    (rawExponent 0xFF50000000000000#64 = 2037 ∧ rawNegative 0xFF50000000000000#64 = true) ∧
    (rawExponent 0x0000000000000001#64 = 0 ∧ rawFraction 0x0000000000000001#64 = 1) ∧
    (rawExponent 0x8000000000000000#64 = 0 ∧ rawFraction 0x8000000000000000#64 = 0) ∧
    (rawExponent 0xFFF0000000000000#64 = 2047 ∧ rawFraction 0xFFF0000000000000#64 = 0) ∧
    (rawExponent 0x7FF8000000000000#64 = 2047 ∧ rawFraction 0x7FF8000000000000#64 ≠ 0) := by
  decide +kernel

/-- 5.0 is nonzero and its product with 1024 does not overflow; -0.0 is zero. -/
theorem witness_QuotientIsRoundedRatio_magnitudes :
    rawMagnitude Config.defaultVref = 5 ∧
      rawMagnitude Config.defaultVref * 1024 < (2 : ℚ) ^ (1024 : Int) ∧
      rawMagnitude 0x8000000000000000#64 = 0 := by
  have h5 : rawMagnitude Config.defaultVref = 5 := by
    unfold rawMagnitude
    rw [witness_QuotientIsRoundedRatio.1.1, witness_QuotientIsRoundedRatio.1.2.1]
    norm_num
  refine ⟨h5, ?_, ?_⟩
  · rw [h5]
    calc (5 : ℚ) * 1024 < (2 : ℚ) ^ (13 : Int) := by norm_num
      _ ≤ (2 : ℚ) ^ (1024 : Int) := zpow_le_zpow_right₀ (by norm_num) (by norm_num)
  · have h := witness_QuotientIsRoundedRatio.2.2.2.1
    simp [rawMagnitude, h.1, h.2]

/-- The magnitude whose product overflows. -/
theorem witness_QuotientIsRoundedRatio_overflow :
    (2 : ℚ) ^ (1024 : Int) ≤ rawMagnitude 0xFF50000000000000#64 * 1024 := by
  have h : rawFraction 0xFF50000000000000#64 = 0 := by decide +kernel
  have hm : rawMagnitude 0xFF50000000000000#64 =
      ((4503599627370496 : Nat) : ℚ) * (2 : ℚ) ^ (962 : Int) := by
    unfold rawMagnitude
    rw [witness_QuotientIsRoundedRatio.2.1.1, h, if_neg (by norm_num)]
    norm_num
  rw [hm]
  exact witness_Times1024IsExact_overflow.2

theorem witness_FullScaleWrapsToZero :
    { idle with vin := Config.defaultVref }.status.phase ≠ .stopped ∧
      { idle with vin := Config.defaultVref }.vin = { idle with vin := Config.defaultVref }.vref ∧
      f64OfBits idle.vref = .fin false 5629499534213120 (-50) ∧ 5629499534213120 ≠ 0 := by
  decide +kernel

theorem witness_VrefIsConstant : ∃ t, step { idle with inbox := [some .usageStop] } = .next t :=
  ⟨_, rfl⟩

theorem witness_LdcfgLatchesPort :
    idle.status.phase = .idle ∧ (start .closed .none .none .none []).status.phase = .closed ∧
      (justOpen []).status.phase = .opened := by decide

theorem witness_OpenOpensDevice :
    (start .closed .none .none .none [answer 0 0 0]).status.phase = .closed ∧
      ((start .closed .none .none .none [answer 0 0 0]).peek (.ctrl (.openDev "P0"))).answered ∧
      ((start .closed .none .none .none [answer 0 0 0]).peek (.ctrl (.openDev "P0"))).ok ∧
      ((start .idle .none .none .none [refusal]).peek (.ctrl (.openDev "P0"))).answered ∧
      ((start .idle .none .none .none [refusal]).peek (.ctrl (.openDev "P0"))).ok = false := by
  decide

/-- One answer meets the three write clauses, and one failure the three others. -/
theorem witness_WritesComplete :
    (justOpen [answer 0 0 0]).status.phase = .opened ∧ (justOpen [refusal]).status.phase = .opened ∧
      ∀ p v,
        ((justOpen [answer 0 0 0]).peek (.ctrl (.write p v))).answered = true ∧
        ((justOpen [answer 0 0 0]).peek (.ctrl (.write p v))).ok = true ∧
        ((justOpen [refusal]).peek (.ctrl (.write p v))).answered = true ∧
        ((justOpen [refusal]).peek (.ctrl (.write p v))).ok = false :=
  ⟨rfl, rfl, fun _ _ => ⟨rfl, rfl, rfl, rfl⟩⟩

theorem witness_ReadBacksComplete :
    (allWritten [answer 16 0 0]).status.phase = .opened ∧
      (allWritten [answer 0 0 0]).status.modeSt = .written ∧
      ((allWritten [answer 0 0 0]).peek (.ctrl (.read .mode))).answered = true ∧
      ((allWritten [answer 0 0 0]).peek (.ctrl (.read .mode))).ok = true ∧
      ((allWritten [answer 0 0 0]).peek (.ctrl (.read .mode))).value.setWidth 8 = link.mode ∧
      (allWritten [answer 16 0 0]).status.bpwSt = .written ∧
      ((allWritten [answer 16 0 0]).peek (.ctrl (.read .bpw))).value.setWidth 8 = link.bpw ∧
      (ready [answer 1000000 0 0]).status.spdSt = .verified ∧
      ((ready [answer 1000000 0 0]).peek (.ctrl (.read .speed))).value = link.speed := by decide

/-- A read-back one above the configured value, and one that fails. -/
theorem witness_ReadBackErrorsRaise :
    (allWritten [answer 1 0 0]).status.phase = .opened ∧
      (allWritten [answer 1 0 0]).status.modeSt ≠ .none ∧
      ((allWritten [answer 1 0 0]).peek (.ctrl (.read .mode))).ok = true ∧
      ((allWritten [answer 1 0 0]).peek (.ctrl (.read .mode))).value.setWidth 8 ≠ link.mode ∧
      ((allWritten [answer 17 0 0]).peek (.ctrl (.read .bpw))).value.setWidth 8 ≠ link.bpw ∧
      ((allWritten [answer 1000001 0 0]).peek (.ctrl (.read .speed))).value ≠ link.speed ∧
      ((allWritten [refusal]).peek (.ctrl (.read .mode))).answered = true ∧
      ((allWritten [refusal]).peek (.ctrl (.read .mode))).ok = false := by decide

theorem witness_CloseReleasesHandle :
    (ready []).status.phase = .opened ∧ idle.status.phase = .idle ∧
      (start .closed .none .none .none []).status.phase = .closed := by decide

/-- A silent controller, for the four requests. -/
theorem witness_SilentControllerKeepsWaiting :
    ((start .idle .none .none .none [silence]).peek (.ctrl (.openDev "P0"))).answered = false ∧
      ((ready [silence]).peek (.ctrl (.write .bpw (cfgParam link .bpw)))).answered = false ∧
      ((ready [silence]).peek (.ctrl (.read .speed))).answered = false ∧
      (ready [silence]).status.st .speed ≠ .none ∧ (ready [silence]).txw = some 0x3800#16 ∧
      (ready [silence]).cfg.bpw = 16#8 ∧ (ready [silence]).status.allVerified = true ∧
      ((ready [silence]).peek (.ctrl (.xfer (descOf link 0x3800#16)))).answered = false := by decide

/-- What the verification state stands for holds of `ready`. -/
theorem ready_verifyInv (ds : List Draw) : VerifyInv (ready ds) := by
  refine ⟨fun _ p => ?_, fun h => by rcases h with h | h <;> cases h⟩
  cases p <;> exact ⟨fun _ => rfl, fun _ => rfl⟩

/-- A controller that accepts every value and reads back what it holds. -/
theorem witness_FaithfulControllerVerifies :
    (ready [answer 1000000 0 0]).status.phase = .opened ∧
      CtrlAnswers (ready [answer 1000000 0 0]) (.write .speed (cfgParam link .speed)) ∧
      CtrlFaithful (fun _ _ => true) (ready [answer 1000000 0 0])
        (.write .speed (cfgParam link .speed)) ∧
      VerifyInv (ready [answer 1000000 0 0]) ∧
      (ready [answer 1000000 0 0]).status.st .speed ≠ .none ∧
      CtrlAnswers (ready [answer 1000000 0 0]) (.read .speed) ∧
      CtrlFaithful (fun _ _ => true) (ready [answer 1000000 0 0]) (.read .speed) :=
  ⟨rfl, rfl, rfl, ready_verifyInv _, by decide, rfl, fun _ h => ⟨rfl, Option.some.inj h⟩⟩

/-- The hypotheses the transfer statements share, at the least count that succeeds. -/
theorem witness_XferExchangesWord :
    (ready [answer 0 2 0x3000]).status.phase = .opened ∧
      (ready [answer 0 2 0x3000]).status.modeSt = .verified ∧
      (ready [answer 0 2 0x3000]).status.bpwSt = .verified ∧
      (ready [answer 0 2 0x3000]).status.spdSt = .verified ∧
      (ready [answer 0 2 0x3000]).txw = some 0x3800#16 ∧
      (ready [answer 0 2 0x3000]).cfg.bpw = 16#8 ∧
      (ready [answer 0 2 0x3000]).peek (.ctrl (.xfer (descOf link 0x3800#16))) =
        answer 0 2 0x3000 ∧
      (answer 0 2 0x3000).answered = true ∧ 2 ≤ (answer 0 2 0x3000).count := by decide

theorem witness_DacReadsTransmittedWord :
    (∃ t, exec .xfer (ready [answer 0 2 0x3000]) = .next t) ∧
      nominalLink link.mode link.bpw = true ∧ nominalLink 0x04#8 link.bpw = false :=
  ⟨⟨_, rfl⟩, by decide, by decide⟩

/-- The greatest count that fails, and an error return. -/
theorem witness_ShortTransferRaises :
    (ready [answer 0 1 0]).peek (.ctrl (.xfer (descOf link 0x3800#16))) = answer 0 1 0 ∧
      (answer 0 1 0).answered = true ∧ (answer 0 1 0).count < 2 ∧ (answer 0 (-1) 0).count < 2 := by
  decide

/-- V-XF-7 and V-XF-8. -/
theorem witness_XferChecksInOrder :
    { ready [] with txw := none }.status.allVerified = true ∧
      { ready [] with txw := none }.txw = none ∧
      { ready [] with cfg := { link with bpw := 8#8 } }.txw = some 0x3800#16 ∧
      { ready [] with cfg := { link with bpw := 8#8 } }.cfg.bpw ≠ 16#8 := by decide

theorem witness_WireSerialisation :
    0 < 16 ∧ 15 < 16 ∧ lsbFirst 0x00#8 = false ∧ lsbFirst 0x08#8 = true := by decide

/-- A state with one OK entry and a controller that answers with its word. -/
def echoing : State :=
  { ready [answer 0 2 0x3004] with
    wireLog := [(ready []).entry 0x3004#16 .ok (some 0#16)] }

theorem witness_EchoPriorShowsPreviousCode :
    echoing.status.phase = .opened ∧ echoing.status.allVerified = true ∧
      echoing.txw = some 0x3800#16 ∧ echoing.cfg.bpw = 16#8 ∧
      nominalLink echoing.cfg.mode echoing.cfg.bpw = true ∧
      (echoing.peek (.ctrl (.xfer (descOf link 0x3800#16)))).answered = true ∧
      2 ≤ (echoing.peek (.ctrl (.xfer (descOf link 0x3800#16)))).count ∧
      EchoPrior echoing (descOf link 0x3800#16) ∧
      lastOk echoing.wireLog = some ((ready []).entry 0x3004#16 .ok (some 0#16)) ∧
      ∃ t, exec .xfer echoing = .next t := by
  refine ⟨rfl, by decide, rfl, rfl, by decide, rfl, by decide, ?_, rfl, ⟨_, rfl⟩⟩
  intro _ e he
  cases he
  rfl

/-- A state with LOOP = 1 and a controller that answers with the word sent. -/
def looped : State := { ready [answer 0 2 0x3800] with cfg := { link with mode := 0x20#8 } }

theorem witness_LoopbackReceivesSentWord :
    looped.status.phase = .opened ∧ looped.status.allVerified = true ∧
      looped.txw = some 0x3800#16 ∧ looped.cfg.bpw = 16#8 ∧ loopMode looped.cfg.mode = true ∧
      (looped.peek (.ctrl (.xfer (descOf looped.cfg 0x3800#16)))).answered = true ∧
      2 ≤ (looped.peek (.ctrl (.xfer (descOf looped.cfg 0x3800#16)))).count ∧
      LoopbackEcho looped (descOf looped.cfg 0x3800#16) ∧ ∃ t, exec .xfer looped = .next t :=
  ⟨rfl, by decide, rfl, rfl, by decide, rfl, by decide, fun _ => rfl, ⟨_, rfl⟩⟩

/-- A row that says no, one that says yes, and STOPPED. -/
theorem witness_PreconditionTable :
    Instr.isCommand .rdmode = true ∧ (justOpen []).status.phase ≠ .stopped ∧
      ¬ MayRun (justOpen []) .rdmode ∧ (ready []).status.err ≠ .sequence ∧
      MayRun (ready []) .xfer ∧ MayRun (allWritten []) .rdspd ∧
      halted.status.phase = .stopped := by
  refine ⟨rfl, by decide, ?_, by decide, ⟨rfl, rfl, rfl, rfl⟩, ⟨rfl, .inl rfl⟩, rfl⟩
  rintro ⟨_, h | h⟩ <;> cases h

theorem witness_ReservedOperationsRaise : (justOpen []).status.phase ≠ .stopped := by decide

/-- A host program of one word, with nothing else to do. -/
def hosting (w : Word) : State :=
  { idle with host := some { cmds := [{ word := w, cfgIn := none, vin := .hold }],
                             hpc := 0, loopTo := none } }

/-- RSV ≠ 0, IMM[3] ≠ 0 in ENC, and IMM ≠ 0 in WRMODE. -/
theorem witness_ReservedBitsRaise :
    (∀ w, (hosting w).arrival = none ∧ (hosting w).waiting = none ∧
      (hosting w).status.phase ≠ .stopped) ∧
      (0xB0010000#32).extractLsb' 16 12 ≠ 0#12 ∧
      ((0xB0000008#32).extractLsb' 28 4 = 0xB#4 ∧ (0xB0000008#32).extractLsb' 3 13 ≠ 0#13) ∧
      ((0x30000001#32).extractLsb' 28 4 ≠ 0xA#4 ∧ (0x30000001#32).extractLsb' 28 4 ≠ 0xB#4 ∧
        (0x30000001#32).extractLsb' 0 16 ≠ 0#16) :=
  ⟨fun _ => ⟨rfl, rfl, Phase.noConfusion⟩, by decide, by decide, by decide⟩

theorem witness_StoppedTakesNoCommand :
    halted.status.phase = .stopped ∧ Instr.wfOn .cmd .xfer = true := by decide

theorem witness_StoppedIsFinal :
    { halted with inbox := [some .kill, none, some .usageStop] }.status.phase = .stopped ∧
      (∀ k, k < 3 → { halted with inbox := [some .kill, none, some .usageStop] }.arrivalAt k ≠
        some .reset) ∧
      ∃ t, core.run 3 { halted with inbox := [some .kill, none, some .usageStop] } = .next t :=
  ⟨rfl, by decide, ⟨_, rfl⟩⟩

/-- A kill while a transfer waits, while a read-back waits, and between commands. -/
theorem witness_KillStopsBlock :
    { ready [] with
        inbox := [some .kill], waiting := some (.xfer (descOf link 0x3800)) }.arrival =
        some .kill ∧
      { ready [] with inbox := [some .kill] }.status.phase ≠ .stopped ∧
      { ready [] with inbox := [some .kill] }.waiting = none ∧
      { ready [] with inbox := [some .kill], waiting := some (.read .mode) }.waiting =
        some (.read .mode) := by decide

/-- IDLE with nothing waiting, IDLE while an OPEN waits, and OPEN. -/
theorem witness_UsageStopOnlyInIdle :
    { idle with inbox := [some .usageStop] }.arrival = some .usageStop ∧
      { idle with inbox := [some .usageStop] }.status.phase = .idle ∧
      { idle with inbox := [some .usageStop] }.waiting = none ∧
      { idle with inbox := [some .usageStop], waiting := some (.openDev "P0") }.waiting =
        some (.openDev "P0") ∧
      { ready [] with inbox := [some .usageStop] }.status.phase ≠ .idle := by decide

theorem witness_NormalEnd :
    { ready [] with host := some { cmds := [], hpc := 0, loopTo := none } }.arrival = none ∧
      { ready [] with host := some { cmds := [], hpc := 0, loopTo := none } }.waiting = none ∧
      (ready []).status.phase ≠ .stopped ∧ ([] : List HostCmd).length ≤ 0 ∧
      StopInv (ready []) := by
  unfold StopInv
  decide

theorem witness_ResetRestoresRegisters :
    { halted with inbox := [some .reset] }.arrival = some .reset ∧
      { halted with inbox := [some .reset] }.waiting = none := by decide

theorem witness_StepRunsDecodedCommand :
    (hosting 0xA0000200#32).arrival = none ∧ (hosting 0xA0000200#32).status.phase ≠ .stopped ∧
      (hosting 0xA0000200#32).waiting = none ∧
      ((hosting 0xA0000200#32).host.bind (fun p => p.cmds[p.hpc]?)).map HostCmd.word =
        some 0xA0000200#32 ∧
      decodeHc32 0xA0000200#32 = .ok (.ldd 0x0200#16) := by decide

/-- A command that brings a record and a prompt, and one that leaves the ports: VIN is the draw's. -/
theorem witness_StepRunsDecodedCommand_ports :
    let c : HostCmd := { word := 0#32, cfgIn := some link, vin := .prompt }
    ((ready [{ answer 0 0 0 with volts := 9#64 }]).present c).vin = 9#64 ∧
      ((ready [silence]).present c).cfgIn = link ∧
      ((ready [silence]).present { c with cfgIn := none, vin := .value 3#64 }).vin = 3#64 ∧
      ((ready [silence]).present { c with cfgIn := none, vin := .hold }).cfgIn.speed = 2#32 := by
  decide

/-- The three ways hpc goes on: a straight program, the middle and the end of a loop. -/
theorem witness_HpcAdvances :
    (hosting 0#32).host.isSome = true ∧ (hosting 0#32).waiting = none ∧
      (hosting 0#32).status.phase ≠ .stopped ∧
      (HostProgram.session link false false false).loopTo = some 1 ∧
      (HostProgram.session link false false false).cmds.length = 12 ∧ 10 + 1 < 12 ∧
      12 ≤ 11 + 1 := by decide

theorem witness_WaitingCommandResumes :
    { ready [silence] with waiting := some (.read .mode) }.arrival = none ∧
      { ready [silence] with waiting := some (.read .mode) }.status.phase ≠ .stopped ∧
      { ready [silence] with waiting := some (.read .mode) }.waiting = some (.read .mode) := by
  decide

/-- XFER leaves its request waiting when the controller is silent. -/
theorem witness_WaitingCommandResumes_left :
    (ready [silence]).waiting = none ∧
      after .xfer (ready [silence]) State.waiting =
        some (some (.xfer (descOf link 0x3800#16))) := by decide

/-- A transfer that waits, with an entry in the log, meets the five invariants, and steps. -/
def midway : State :=
  { ready [answer 0 2 0x3000] with
    waiting := some (.xfer (descOf link 0x3800#16))
    wireLog := [(ready []).entry 0x3004#16 .ok (some 0#16)] }

theorem witness_step : ∃ t, step midway = .next t := ⟨_, rfl⟩

theorem witness_HandleInvariantKept : HandleInv midway := by unfold HandleInv; decide

theorem witness_CommandWordInvariantKept : WordInv midway := by
  refine ⟨fun w h => ?_, fun e h => ?_, fun d h => ?_⟩
  · cases h
    unfold IsCw16
    decide
  · rw [List.mem_singleton.mp h]
    unfold IsCw16
    decide
  · cases h
    unfold IsCw16
    decide

theorem witness_StopInvariantKept : StopInv midway := by unfold StopInv; decide

theorem witness_VerificationInvariantKept : VerifyInv midway :=
  ready_verifyInv [answer 0 2 0x3000]

theorem witness_WaitInvariantKept : WaitInv midway := by
  intro r h
  cases h
  exact ⟨rfl, rfl, rfl, rfl, rfl⟩

theorem witness_ConfigurationIsLocked :
    midway.status.phase ≠ .idle ∧ midway.arrival ≠ some .reset := by decide

theorem witness_WireLogIsAppendOnly :
    midway.arrival ≠ some .reset ∧
      stepped midway (fun t => t.wireLog.length) = some 2 := by decide

theorem witness_TransferOnlyWhenVerified :
    VerifyInv (ready [answer 0 2 0x3000]) ∧
      after .xfer (ready [answer 0 2 0x3000]) (fun t => decide (t.wireLog ≠ [])) = some true :=
  ⟨ready_verifyInv _, by decide⟩

theorem witness_EchoIsFieldOfRxw :
    { idle with rxw := some 0x1234#16 }.rxw = some 0x1234#16 ∧ idle.rxw = none ∧
      idle.dreg = some 512#16 ∧ idle.exit = none := by decide

/-- A flag that stands before, a speed with no speed after it, an unknown option, and none. -/
theorem witness_OptionMapping :
    CliOption.lsb ∈ [CliOption.loop, .cpha, .cpol, .lsb, .csHigh, .threeWire, .noCs, .ready] ∧
      CliOption.lsb ∈ [CliOption.bpw 8#8, .lsb] ∧
      (applyOptions link ([CliOption.speed 1#32] ++ .speed 2#32 :: [.lsb])).map LinkConfig.speed =
        some 2#32 ∧
      applyOptions defaultCfg [.lsb, .unknown] = none ∧
      (applyOptions defaultCfg [.lsb]).isSome = true := by
  decide

theorem witness_OptionMapping_last (w : Word) : CliOption.speed w ∉ [CliOption.lsb] := by simp

/-- A word at the DAC while an XFER waits in OPEN, and outside one. -/
theorem witness_DacwrIsRead :
    { ready [] with inbox := [some (.dacWord 0x3800)],
                    waiting := some (.xfer (descOf link 0x3800)) }.arrival =
        some (.dacWord 0x3800) ∧
      { ready [] with inbox := [some (.dacWord 0x3800)] }.status.phase = .opened ∧
      { ready [] with inbox := [some (.dacWord 0x3800)] }.waiting = none ∧ idle.waiting = none := by
  decide

end Tests
end Sys2Proof
end

section
/-!
PROOF. What a step does with a word at the DAC's serial input, and that `roundRatio` is binary64's
rounding to nearest, ties to even (00_scope R12).
-/

namespace Sys2Proof
namespace Machine

/-! ### The DAC's word (30_encoding R80, 00_scope R16) -/

theorem exec_dacwr (ch buf gaN : Bool) (data : BitVec 10) (s : State) :
    exec (.dacwr ch buf gaN data) s = .next (s.latch (cw16Of ch buf gaN data)) := by
  rw [exec_effect, effect_dacwr]

theorem dacFields_cw16Of (ch buf gaN : Bool) (data : BitVec 10) :
    dacFields (cw16Of ch buf gaN data) =
      { ch := ch, buf := buf, gaN := gaN, act := true, data := data } := by
  simp only [dacFields, ch_cw16Of, buf_cw16Of, gaN_cw16Of, act_cw16Of, data_cw16Of]

/-- An XFER waits exactly in OPEN with a transfer in flight. -/
theorem transferWaits_iff (s : State) :
    s.transferWaits = true ↔ s.status.phase = .opened ∧ ∃ d, s.waiting = some (.xfer d) := by
  unfold State.transferWaits
  split
  next d hw => simp [hw]
  next hno => simpa using fun _ d hw => hno d hw

/-- Looking at what arrives does not change whether an XFER waits. -/
theorem advance_transferWaits (s : State) : s.advance.transferWaits = s.transferWaits := rfl

/-- Settles O33: DACWR latches the word assembled from its fields, and a word that arrives is
latched exactly while an XFER waits. -/
theorem dacwrIsRead : Obligations.DacwrIsRead := by
  refine ⟨fun s ch buf gaN data =>
    ⟨cw16Of ch buf gaN data, exec_dacwr .., dacFields_cw16Of .., low_cw16Of ..⟩,
    fun s w harr => ⟨fun hopen hxfer => ?_, fun hout => ?_⟩⟩
  · exact step_dacWord harr ((transferWaits_iff s).mpr ⟨hopen, hxfer⟩)
  · refine step_dacWord_ignored harr ?_
    rw [advance_transferWaits, ← Bool.not_eq_true, transferWaits_iff]
    rintro ⟨hopen, d, hd⟩
    exact hout.elim (fun h => h hopen) (fun h => h d hd)

/-! ### Rounding to nearest, ties to even (00_scope R12)

`IsNearestEven x m e` says that m * 2^e is what x rounds to when the exponent has no upper end.
`roundRatio` finds such a pair, and overflow can be read off the pair alone. -/

/-- m * 2^e is the number of at most 53 significant bits and exponent at least -1074 nearest to x,
the even one of two; of its representations it is the one with the least exponent. -/
structure IsNearestEven (x : ℚ) (m : Nat) (e : Int) : Prop where
  mant_lt : m < 2 ^ 53
  exp_ge : -1074 ≤ e
  full : 2 ^ 52 ≤ m ∨ e = -1074
  half_ulp : |x - (m : ℚ) * (2 : ℚ) ^ e| ≤ (2 : ℚ) ^ e / 2
  quarter_ulp : m = 2 ^ 52 → e ≠ -1074 → (m : ℚ) * (2 : ℚ) ^ e - x ≤ (2 : ℚ) ^ e / 4
  tie_even : |x - (m : ℚ) * (2 : ℚ) ^ e| = (2 : ℚ) ^ e / 2 → m % 2 = 0

theorem isNearestEven_zero : IsNearestEven 0 0 (-1074) where
  mant_lt := by norm_num
  exp_ge := le_rfl
  full := .inr rfl
  half_ulp := by
    rw [Nat.cast_zero, zero_mul, sub_zero, abs_zero]
    positivity
  quarter_ulp := by simp
  tie_even _ := rfl

/-- The exponent `roundRatio` rounds at. -/
def roundExp (n d : Nat) : Int := max (-1074) (ratioLog n d - 52)

/-- The mantissa it rounds to there; 2^53 when the rounding carries into a new bit. -/
def roundMant (n d : Nat) : Nat :=
  nearestEven (n <<< (-roundExp n d).toNat) (d <<< (roundExp n d).toNat)

theorem roundRatio_zero (neg : Bool) (d : Nat) : roundRatio neg 0 d = .fin neg 0 (-1074) := rfl

theorem roundRatio_of_carry {n d : Nat} (neg : Bool) (hn : n ≠ 0) (hc : roundMant n d = 2 ^ 53) :
    roundRatio neg n d =
      if 971 < roundExp n d + 1 then .inf neg else .fin neg (2 ^ 52) (roundExp n d + 1) := by
  unfold roundMant roundExp at hc
  simp [roundRatio, roundExp, hn, hc]

theorem roundRatio_of_no_carry {n d : Nat} (neg : Bool) (hn : n ≠ 0)
    (hc : roundMant n d ≠ 2 ^ 53) :
    roundRatio neg n d =
      if 971 < roundExp n d then .inf neg else .fin neg (roundMant n d) (roundExp n d) := by
  unfold roundMant roundExp at hc
  norm_num at hc
  simp [roundRatio, roundExp, roundMant, hn, hc]

/-- `nearestEven` of a ratio scaled by 2^-e is within half of 2^e, and even at exactly half. -/
theorem nearestEven_scaled (n d : Nat) (hd : 0 < d) (e : Int) :
    |(n : ℚ) / d - nearestEven (n <<< (-e).toNat) (d <<< e.toNat) * (2 : ℚ) ^ e| ≤
        (2 : ℚ) ^ e / 2 ∧
      (|(n : ℚ) / d - nearestEven (n <<< (-e).toNat) (d <<< e.toNat) * (2 : ℚ) ^ e| =
        (2 : ℚ) ^ e / 2 → nearestEven (n <<< (-e).toNat) (d <<< e.toNat) % 2 = 0) := by
  have hp : (0 : ℚ) < (2 : ℚ) ^ e := by positivity
  have hden : 0 < d <<< e.toNat := by
    rw [Nat.shiftLeft_eq]
    positivity
  have hspec := nearestEven_spec (n <<< (-e).toNat) (d <<< e.toNat) hden
  have hratio := shiftLeft_ratio n d (-e)
  rw [neg_neg, zpow_neg, ← div_eq_mul_inv] at hratio
  rw [hratio] at hspec
  generalize nearestEven (n <<< (-e).toNat) (d <<< e.toNat) = m at hspec ⊢
  have herr : |(n : ℚ) / d - m * (2 : ℚ) ^ e| = |(n : ℚ) / d / (2 : ℚ) ^ e - m| * (2 : ℚ) ^ e := by
    rw [← abs_of_pos hp, ← abs_mul, abs_of_pos hp, sub_mul, div_mul_cancel₀ _ hp.ne']
  rw [herr, show (2 : ℚ) ^ e / 2 = 1 / 2 * (2 : ℚ) ^ e by ring]
  exact ⟨mul_le_mul_of_nonneg_right hspec.1 hp.le,
    fun htie => hspec.2 (mul_right_cancel₀ hp.ne' htie)⟩

/-- The mantissa is within half a unit in its last place of the ratio, and even at exactly half. -/
theorem roundMant_half_ulp (n : Nat) {d : Nat} (hd : 0 < d) :
    |(n : ℚ) / d - roundMant n d * (2 : ℚ) ^ roundExp n d| ≤ (2 : ℚ) ^ roundExp n d / 2 ∧
      (|(n : ℚ) / d - roundMant n d * (2 : ℚ) ^ roundExp n d| = (2 : ℚ) ^ roundExp n d / 2 →
        roundMant n d % 2 = 0) :=
  nearestEven_scaled n d hd (roundExp n d)

/-- The exponent is large enough for 53 bits. -/
theorem ratio_lt_roundExp {n d : Nat} (hn : 0 < n) (hd : 0 < d) :
    (n : ℚ) / d < 2 ^ 53 * (2 : ℚ) ^ roundExp n d := by
  calc (n : ℚ) / d < (2 : ℚ) ^ (ratioLog n d + 1) := (ratioLog_spec hn hd).2
    _ ≤ (2 : ℚ) ^ ((53 : Int) + roundExp n d) := by
      refine zpow_le_zpow_right₀ (by norm_num) ?_
      unfold roundExp
      omega
    _ = 2 ^ 53 * (2 : ℚ) ^ roundExp n d := by
      rw [zpow_add₀ (by norm_num)]
      norm_num

/-- Above the smallest exponent it is no larger than 53 bits need. -/
theorem roundExp_le_ratio {n d : Nat} (hn : 0 < n) (hd : 0 < d) (he : roundExp n d ≠ -1074) :
    2 ^ 52 * (2 : ℚ) ^ roundExp n d ≤ (n : ℚ) / d := by
  have hexp : ratioLog n d = (52 : Int) + roundExp n d := by
    unfold roundExp at he ⊢
    omega
  calc 2 ^ 52 * (2 : ℚ) ^ roundExp n d = (2 : ℚ) ^ ratioLog n d := by
        rw [hexp, zpow_add₀ (by norm_num)]
        norm_num
    _ ≤ (n : ℚ) / d := (ratioLog_spec hn hd).1

theorem roundMant_le {n d : Nat} (hn : 0 < n) (hd : 0 < d) : roundMant n d ≤ 2 ^ 53 := by
  have hp : (0 : ℚ) < (2 : ℚ) ^ roundExp n d := by positivity
  have hhalf := (roundMant_half_ulp n hd).1
  have hlt := ratio_lt_roundExp hn hd
  have hm : (roundMant n d : ℚ) < 2 ^ 53 + 1 := by
    refine lt_of_mul_lt_mul_right ?_ hp.le
    linarith [(abs_le.mp hhalf).1]
  exact Nat.lt_succ_iff.mp (by exact_mod_cast hm)

theorem le_roundMant {n d : Nat} (hn : 0 < n) (hd : 0 < d) (he : roundExp n d ≠ -1074) :
    2 ^ 52 ≤ roundMant n d := by
  have hp : (0 : ℚ) < (2 : ℚ) ^ roundExp n d := by positivity
  have hhalf := (roundMant_half_ulp n hd).1
  have hge := roundExp_le_ratio hn hd he
  have hm : (2 ^ 52 : ℚ) < roundMant n d + 1 := by
    refine lt_of_mul_lt_mul_right ?_ hp.le
    linarith [(abs_le.mp hhalf).2]
  exact Nat.lt_succ_iff.mp (by exact_mod_cast hm)

/-- Without a carry the rounded pair is nearest: at the bottom of a binade it is not above x. -/
theorem isNearestEven_of_no_carry {n d : Nat} (hn : 0 < n) (hd : 0 < d)
    (hc : roundMant n d ≠ 2 ^ 53) :
    IsNearestEven ((n : ℚ) / d) (roundMant n d) (roundExp n d) where
  mant_lt := lt_of_le_of_ne (roundMant_le hn hd) hc
  exp_ge := le_max_left _ _
  full := (em (roundExp n d = -1074)).elim .inr fun he => .inl (le_roundMant hn hd he)
  half_ulp := (roundMant_half_ulp n hd).1
  quarter_ulp hm he := by
    have hge := roundExp_le_ratio hn hd he
    have hp : (0 : ℚ) < (2 : ℚ) ^ roundExp n d := by positivity
    rw [hm]
    push_cast
    linarith
  tie_even := (roundMant_half_ulp n hd).2

/-- With a carry x lies below 2^53 * 2^e by at most half of 2^e, a quarter of the new last place. -/
theorem isNearestEven_of_carry {n d : Nat} (hn : 0 < n) (hd : 0 < d)
    (hc : roundMant n d = 2 ^ 53) :
    IsNearestEven ((n : ℚ) / d) (2 ^ 52) (roundExp n d + 1) := by
  have hp : (0 : ℚ) < (2 : ℚ) ^ roundExp n d := by positivity
  have hhalf := (roundMant_half_ulp n hd).1
  rw [hc] at hhalf
  push_cast at hhalf
  have hlow := (abs_le.mp hhalf).1
  have hlt := ratio_lt_roundExp hn hd
  have hstep : (2 : ℚ) ^ (roundExp n d + 1) = 2 * (2 : ℚ) ^ roundExp n d := by
    rw [zpow_add_one₀ (by norm_num), mul_comm]
  exact {
    mant_lt := by norm_num
    exp_ge := (le_max_left _ _).trans (Int.le_add_one le_rfl)
    full := .inl le_rfl
    half_ulp := by
      rw [hstep, abs_le]
      push_cast
      constructor <;> linarith
    quarter_ulp := fun _ _ => by
      rw [hstep]
      push_cast
      linarith
    tie_even := fun _ => by norm_num }

/-- `roundRatio` answers a nearest pair, or an infinity when its exponent is beyond 971. -/
theorem roundRatio_spec (neg : Bool) (n : Nat) {d : Nat} (hd : 0 < d) :
    ∃ m e, IsNearestEven ((n : ℚ) / d) m e ∧
      roundRatio neg n d = if 971 < e then .inf neg else .fin neg m e := by
  obtain rfl | hn := n.eq_zero_or_pos
  · exact ⟨0, -1074, by simpa using isNearestEven_zero,
      by rw [roundRatio_zero, if_neg (by norm_num)]⟩
  · by_cases hc : roundMant n d = 2 ^ 53
    · exact ⟨_, _, isNearestEven_of_carry hn hd hc, roundRatio_of_carry neg hn.ne' hc⟩
    · exact ⟨_, _, isNearestEven_of_no_carry hn hd hc, roundRatio_of_no_carry neg hn.ne' hc⟩

/-- Halfway beyond the largest finite value, in units of the last place below it and above it. -/
theorem overflow_bound :
    (2 : ℚ) ^ (1024 : Int) - (2 : ℚ) ^ (970 : Int) = (2 ^ 53 - 1 / 2) * (2 : ℚ) ^ (971 : Int) ∧
      (2 : ℚ) ^ (1024 : Int) - (2 : ℚ) ^ (970 : Int) = (2 ^ 52 - 1 / 4) * (2 : ℚ) ^ (972 : Int) := by
  have hsplit : ∀ k : Int, (2 : ℚ) ^ (k + 970) = (2 : ℚ) ^ k * (2 : ℚ) ^ (970 : Int) :=
    fun k => zpow_add₀ (by norm_num) k 970
  rw [show (1024 : Int) = 54 + 970 from rfl, show (971 : Int) = 1 + 970 from rfl,
    show (972 : Int) = 2 + 970 from rfl, hsplit, hsplit, hsplit]
  generalize (2 : ℚ) ^ (970 : Int) = p
  constructor <;> ring

/-- A nearest pair with an exponent beyond binary64's is that of a number from the bound on. -/
theorem IsNearestEven.bound_le {x : ℚ} {m : Nat} {e : Int} (h : IsNearestEven x m e)
    (he : 971 < e) : (2 : ℚ) ^ (1024 : Int) - (2 : ℚ) ^ (970 : Int) ≤ x := by
  have hp : (0 : ℚ) < (2 : ℚ) ^ e := by positivity
  have hp972 : (2 : ℚ) ^ (972 : Int) ≤ (2 : ℚ) ^ e := zpow_le_zpow_right₀ (by norm_num) he
  have hfull : 2 ^ 52 ≤ m := h.full.resolve_right (by omega)
  have hx : (2 ^ 52 - 1 / 4) * (2 : ℚ) ^ e ≤ x := by
    obtain hm | hm := hfull.eq_or_lt
    · have hq := h.quarter_ulp hm.symm (by omega)
      rw [← hm] at hq
      push_cast at hq
      linarith
    · have hlow := (abs_le.mp h.half_ulp).1
      have hmq : (2 ^ 52 + 1 : ℚ) ≤ m := by exact_mod_cast hm
      have hmul : (2 ^ 52 + 1 : ℚ) * (2 : ℚ) ^ e ≤ m * (2 : ℚ) ^ e := by gcongr
      linarith only [hlow, hmul, hp]
  calc _ = (2 ^ 52 - 1 / 4) * (2 : ℚ) ^ (972 : Int) := overflow_bound.2
    _ ≤ (2 ^ 52 - 1 / 4) * (2 : ℚ) ^ e := by gcongr
    _ ≤ x := hx

/-- From the bound on no nearest pair has an exponent of binary64's range: at the bound itself the
largest mantissa would be a tie, and it is odd. -/
theorem IsNearestEven.exp_gt {x : ℚ} {m : Nat} {e : Int} (h : IsNearestEven x m e)
    (hx : (2 : ℚ) ^ (1024 : Int) - (2 : ℚ) ^ (970 : Int) ≤ x) : 971 < e := by
  by_contra! he
  rw [overflow_bound.1] at hx
  have hp : (0 : ℚ) < (2 : ℚ) ^ e := by positivity
  have hp971 : (2 : ℚ) ^ e ≤ (2 : ℚ) ^ (971 : Int) := zpow_le_zpow_right₀ (by norm_num) he
  have hxe : (2 ^ 53 - 1 / 2) * (2 : ℚ) ^ e ≤ x := 
    (mul_le_mul_of_nonneg_left hp971 (by norm_num)).trans hx
  have hup := (abs_le.mp h.half_ulp).2
  have hm : m = 2 ^ 53 - 1 := by
    have hge : (2 ^ 53 - 1 : ℚ) ≤ m := by
      refine le_of_mul_le_mul_right ?_ hp
      linarith
    have hgeNat : 2 ^ 53 ≤ m + 1 := by exact_mod_cast (by linarith : (2 ^ 53 : ℚ) ≤ m + 1)
    have := h.mant_lt
    omega
  have htie : |x - (m : ℚ) * (2 : ℚ) ^ e| = (2 : ℚ) ^ e / 2 := by
    refine le_antisymm h.half_ulp (le_trans ?_ (le_abs_self _))
    rw [hm]
    norm_num at hxe ⊢
    linarith
  have heven := h.tie_even htie
  omega

/-- The exponent passes binary64's range exactly from halfway beyond the largest finite value. -/
theorem IsNearestEven.overflow_iff {x : ℚ} {m : Nat} {e : Int} (h : IsNearestEven x m e) :
    971 < e ↔ (2 : ℚ) ^ (1024 : Int) - (2 : ℚ) ^ (970 : Int) ≤ x :=
  ⟨h.bound_le, h.exp_gt⟩

/-- Settles O12: `roundRatio` answers the nearest pair, and its exponent alone decides overflow. -/
theorem roundingIsNearestEven : Obligations.RoundingIsNearestEven := by
  intro neg n d hd
  obtain ⟨m, e, hnear, hround⟩ := roundRatio_spec neg n hd
  rw [hround, ← hnear.overflow_iff]
  by_cases he : 971 < e
  · simp [he]
  · rw [if_neg he]
    refine ⟨fun neg' m' e' heq => ?_, by simp [he], nofun, nofun⟩
    cases heq
    exact ⟨rfl, hnear.mant_lt, hnear.exp_ge, not_lt.mp he, hnear.full, hnear.half_ulp,
      hnear.quarter_ulp, hnear.tie_even⟩

end Machine
end Sys2Proof
end

section
/-!
PROOF. The invariants of the state (10_state R24, R36 to R39, R44): each is kept by the operations
that touch its registers, then by `effect_preserves` and `step_preserves`. Then the values at reset,
a command's ports, the layout of STATUS, and the read port.
-/

namespace Sys2Proof
namespace Machine

/-! ### The kill (60_exceptions R256) -/

/-- Everything a kill can do. -/
theorem killed_cases (s : State) :
    (s.status.phase = .stopped ∧ s.killed = s) ∨
      (s.status.phase ≠ .stopped ∧ s.killed = { s.killWaiting.releaseIfOpen with
        status := s.status.kill, exit := some Config.killStatus, waiting := none }) := by
  by_cases h : s.status.phase = .stopped
  · exact .inl ⟨h, killed_stopped h⟩
  · exact .inr ⟨h, killed_running h⟩

/-! ### The handle (10_state R36) -/

/-- A state that is not OPEN meets the invariant once the handle is given back. -/
theorem handleInv_of_not_held {s : State} (hphase : s.status.phase ≠ .opened)
    (hheld : s.ctrl.held = false) : HandleInv s := by
  simp [HandleInv, hphase, hheld]

/-- Where the handle goes with OPEN, no handle is left after a release. -/
theorem HandleInv.releaseIfOpen_held {s : State} (h : HandleInv s) :
    s.releaseIfOpen.ctrl.held = false := by
  rcases releaseIfOpen_ctrl_cases s with ⟨_, hc⟩ | ⟨hphase, hc⟩ <;> rw [hc]
  simpa [HandleInv, hphase] using h

theorem HandleInv.raise {s : State} (h : HandleInv s) (e : ErrCode) : HandleInv (s.raise e) :=
  handleInv_of_not_held (by simp) h.releaseIfOpen_held

theorem HandleInv.endRun {s : State} (h : HandleInv s) : HandleInv s.endRun :=
  handleInv_of_not_held (by simp) h.releaseIfOpen_held

theorem HandleInv.killWaiting {s : State} (h : HandleInv s) : HandleInv s.killWaiting := by
  simpa [HandleInv] using h

theorem HandleInv.killed {s : State} (h : HandleInv s) : HandleInv s.killed := by
  rcases killed_cases s with ⟨_, hk⟩ | ⟨_, hk⟩ <;> rw [hk]
  · exact h
  · exact handleInv_of_not_held (by simp) h.killWaiting.releaseIfOpen_held

theorem HandleInv.effect {s : State} (h : HandleInv s) (i : Instr) : HandleInv (effect i s) := by
  refine effect_preserves HandleInv i s h
    (hraise := fun u e hu _ _ => hu.raise e)
    (hcfg := fun _ => h) (hdreg := fun _ _ hu => hu) (htxw := fun _ _ _ _ => h)
    (hdac := fun _ _ hu => hu) (hwait := fun _ _ _ => h) (hnow := h)
    (hsettle := fun _ _ hu => hu) (hopen := fun _ _ => ?opened) (hwrite := fun p _ _ => ?wrote)
    (hread := fun p v _ _ => ⟨HandleInv.raise ?read _, fun _ => ?verified⟩)
    (hxfer := fun _ _ _ _ _ _ _ => h) (hclose := fun _ => ?closed)
  case opened => simp [HandleInv]
  case wrote => simpa [HandleInv] using h
  case read => simpa [HandleInv] using h
  case verified => simpa [HandleInv] using h
  case closed => exact handleInv_of_not_held (by simp) rfl

/-- Settles O48: every release of the handle goes with a change out of OPEN; only OPEN takes it. -/
theorem handleInvariantKept : Obligations.HandleInvariantKept := fun _ _ h hstep =>
  step_preserves HandleInv hstep h
    (hadvance := fun _ hu => hu) (hhost := fun _ _ _ hu => hu) (hlatch := fun _ _ hu => hu)
    (hport := fun _ _ _ hu => hu) (htick := fun _ hu => hu) (hcut := fun _ _ _ hu => hu)
    (hkill := fun _ hu => hu.killed) (hraise := fun _ e hu _ _ => hu.raise e)
    (hreset := fun _ _ => handleInv_of_not_held (by simp [State.resetBlock, resetStatus]) rfl)
    (hend := fun _ hu => hu.endRun) (heffect := fun i _ _ _ _ _ _ _ hu => hu.effect i)

/-! ### STOPPED and what goes with it (10_state R37, R39, R51, 60_exceptions R240) -/

/-- The fields of STATUS and EXIT alone decide the invariant. -/
theorem StopInv.congr {s t : State} (h : StopInv s) (hexit : t.exit = s.exit)
    (hphase : t.status.phase = s.status.phase) (herr : t.status.err = s.status.err)
    (hkilled : t.status.killed = s.status.killed)
    (hclass : t.status.faultClass = s.status.faultClass) : StopInv t := by
  unfold StopInv
  rwa [hexit, hphase, herr, hkilled, hclass]

/-- Outside STOPPED the invariant says that EXIT, ERR, KILLED and FAULTCLASS are clear. -/
theorem stopInv_iff_of_running {s : State} (hphase : s.status.phase ≠ .stopped) :
    StopInv s ↔ s.exit = none ∧ s.status.err = .none ∧ s.status.killed = false ∧
      s.status.faultClass = ErrCode.none.faultClass := by
  simp +contextual [StopInv, hphase]

/-- A change of phase between IDLE, CLOSED and OPEN. -/
theorem StopInv.enter {s t : State} {p : Phase} (h : StopInv s)
    (hphase : s.status.phase ≠ .stopped) (hp : p ≠ .stopped) (hexit : t.exit = s.exit)
    (hstatus : t.status = s.status.enter p) : StopInv t := by
  rw [stopInv_iff_of_running hphase] at h
  rw [stopInv_iff_of_running (by simpa [hstatus] using hp)]
  simpa [hexit, hstatus] using h

theorem StopInv.raise {s : State} (h : StopInv s) (hphase : s.status.phase ≠ .stopped)
    (e : ErrCode) : StopInv (s.raise e) := by
  obtain ⟨_, _, hkilled, _⟩ := (stopInv_iff_of_running hphase).mp h
  simp [StopInv, hkilled]

theorem StopInv.endRun {s : State} (h : StopInv s) (hphase : s.status.phase ≠ .stopped) :
    StopInv s.endRun := by
  obtain ⟨_, herr, hkilled, hclass⟩ := (stopInv_iff_of_running hphase).mp h
  simp [StopInv, herr, hkilled, hclass]

theorem StopInv.killed {s : State} (h : StopInv s) : StopInv s.killed := by
  rcases killed_cases s with ⟨_, hk⟩ | ⟨hphase, hk⟩ <;> rw [hk]
  · exact h
  · obtain ⟨_, herr, _, hclass⟩ := (stopInv_iff_of_running hphase).mp h
    simp [StopInv, herr, hclass]

theorem stopInv_resetBlock (s : State) : StopInv s.resetBlock :=
  (stopInv_iff_of_running (by simp [State.resetBlock, resetStatus])).mpr ⟨rfl, rfl, rfl, rfl⟩

theorem StopInv.effect {s : State} (h : StopInv s) (i : Instr) : StopInv (effect i s) := by
  refine effect_preserves StopInv i s h
    (hraise := fun _ e hu hphase _ => hu.raise hphase e)
    (hcfg := fun _ => h) (hdreg := fun _ _ hu => hu) (htxw := fun _ _ _ _ => h)
    (hdac := fun _ _ hu => hu) (hwait := fun _ _ _ => h) (hnow := h)
    (hsettle := fun _ _ hu => hu) (hopen := fun _ hphase => ?opened)
    (hwrite := fun p _ _ => ?wrote)
    (hread := fun p v hphase _ => ⟨StopInv.raise ?read (by simp [hphase]) _, fun _ => ?verified⟩)
    (hxfer := fun _ _ _ _ _ _ _ => h) (hclose := fun hphase => ?closed)
  case opened => exact h.enter (by rcases hphase with hp | hp <;> simp [hp]) (by simp) rfl rfl
  case wrote => exact h.congr rfl (by simp) (by simp) (by simp) (by simp)
  case read => exact h.congr (by simp) (by simp) (by simp) (by simp) (by simp)
  case verified => exact h.congr (by simp) (by simp) (by simp) (by simp) (by simp)
  case closed => exact h.enter (by simp [hphase]) (by simp) rfl rfl

/-- Settles O50: outside STOPPED all four are clear, and each way into STOPPED sets what it must. -/
theorem stopInvariantKept : Obligations.StopInvariantKept := fun _ _ h hstep =>
  step_preserves StopInv hstep h
    (hadvance := fun _ hu => hu) (hhost := fun _ _ _ hu => hu) (hlatch := fun _ _ hu => hu)
    (hport := fun _ _ _ hu => hu) (htick := fun _ hu => hu) (hcut := fun _ _ _ hu => hu)
    (hkill := fun _ hu => hu.killed) (hraise := fun _ e hu hphase _ => hu.raise hphase e)
    (hreset := fun _ _ => stopInv_resetBlock _) (hend := fun hphase hu => hu.endRun hphase)
    (heffect := fun i _ _ _ _ _ _ _ hu => hu.effect i)

/-! ### What the ST fields stand for (10_state R38) -/

@[simp] theorem wrote_accept_same (c : Ctrl) (cfg : LinkConfig) (p : Param) :
    (c.accept p (cfgParam cfg p)).wrote p = some (cfgParam cfg p) := by
  cases p <;> simp [Ctrl.accept, Ctrl.wrote, cfgParam]

theorem wrote_accept_other (c : Ctrl) {p q : Param} (v : Word) (h : q ≠ p) :
    (c.accept p v).wrote q = c.wrote q := by
  cases p <;> cases q <;> trivial

@[simp] theorem rb_setRb_same (s : State) (p : Param) (v : Word) :
    (s.setRb p v).rb p = some (readValue p v) := by
  cases p <;> rfl

theorem rb_setRb_other (s : State) {p q : Param} (v : Word) (h : q ≠ p) :
    (s.setRb p v).rb q = s.rb q := by
  cases p <;> cases q <;> trivial

@[simp] theorem rb_setSt (s : State) (p q : Param) (v : VerState) : (s.setSt p v).rb q = s.rb q :=
  rfl

/-- An ST field of 1 needs the accepted write only. -/
theorem stMeans_written (rb : Option Word) (v : Word) : StMeans .written (some v) rb v :=
  ⟨fun _ => rfl, nofun⟩

theorem stMeans_verified (v : Word) : StMeans .verified (some v) (some v) v :=
  ⟨fun _ => rfl, fun _ => rfl⟩

/-- With all three ST fields 0 there is nothing to stand for. -/
theorem verifyInv_of_cleared {s : State} (h : ∀ p, s.status.st p = .none) : VerifyInv s :=
  ⟨fun _ p => by rw [h p]; exact ⟨nofun, nofun⟩, fun _ => h⟩

theorem verifyInv_of_stopped {s : State} (h : s.status.phase = .stopped) : VerifyInv s := by
  simp [VerifyInv, h]

theorem verifyInv_iff_of_opened {s : State} (h : s.status.phase = .opened) : VerifyInv s ↔
    ∀ p, StMeans (s.status.st p) (s.ctrl.wrote p) (s.rb p) (cfgParam s.cfg p) := by
  simp [VerifyInv, h]

theorem VerifyInv.settle {s : State} (h : VerifyInv s) (a : Draw) : VerifyInv (s.settle a) := by
  refine ⟨fun hphase p => ?_, h.2⟩
  rw [settle_ctrl, settle_wrote]
  exact h.1 hphase p

theorem VerifyInv.killed {s : State} (h : VerifyInv s) : VerifyInv s.killed := by
  rcases killed_cases s with ⟨_, hk⟩ | ⟨_, hk⟩ <;> rw [hk]
  · exact h
  · exact verifyInv_of_stopped rfl

/-- An accepted write of the configured value is what ST = 1 stands for. -/
theorem VerifyInv.write {s : State} (h : VerifyInv s) (hphase : s.status.phase = .opened)
    (p : Param) (a : Draw) :
    VerifyInv { s.tick.setSt p .written with
      waiting := none, ctrl := (s.ctrl.settle a).accept p (cfgParam s.cfg p) } := by
  rw [verifyInv_iff_of_opened hphase] at h
  rw [verifyInv_iff_of_opened (by simp [hphase])]
  intro q
  by_cases hq : q = p
  · subst hq
    simpa using stMeans_written _ _
  · simp only [setSt_status, setSt_other _ _ hq, wrote_accept_other _ _ hq, settle_wrote]
    exact h q

/-- A read-back that gives the configured value is what ST = 2 stands for beyond ST = 1. -/
theorem VerifyInv.read {s : State} (h : VerifyInv s) (hphase : s.status.phase = .opened)
    {p : Param} {v : Word} (hwritten : (s.status.st p).wasWritten = true)
    (hv : readValue p v = cfgParam s.cfg p) :
    VerifyInv ((({ s.tick with waiting := none } : State).setRb p v).setSt p .verified) := by
  rw [verifyInv_iff_of_opened hphase] at h
  rw [verifyInv_iff_of_opened (by simp [hphase])]
  intro q
  by_cases hq : q = p
  · subst hq
    simpa [hv, (h q).1 hwritten] using stMeans_verified _
  · simp only [setSt_status, setRb_status, setSt_other _ _ hq, rb_setSt, rb_setRb_other _ _ hq,
      setSt_ctrl, setRb_ctrl, setSt_cfg, setRb_cfg]
    exact h q

theorem VerifyInv.effect {s : State} (h : VerifyInv s) (i : Instr) : VerifyInv (effect i s) :=
  effect_preserves VerifyInv i s h
    (hraise := fun _ _ _ _ _ => verifyInv_of_stopped rfl)
    (hcfg := fun hphase => verifyInv_of_cleared (h.2 (.inl hphase)))
    (hdreg := fun _ _ hu => hu) (htxw := fun _ _ _ _ => h) (hdac := fun _ _ hu => hu)
    (hwait := fun _ _ _ => h) (hnow := h) (hsettle := fun _ a hu => hu.settle a)
    (hopen := fun _ _ => verifyInv_of_cleared (enter_st _ _))
    (hwrite := fun p a hphase => h.write hphase p a)
    (hread := fun _ _ hphase hwritten =>
      ⟨verifyInv_of_stopped rfl, fun hv => h.read hphase hwritten hv⟩)
    (hxfer := fun _ _ _ _ _ _ _ => h)
    (hclose := fun _ => verifyInv_of_cleared (enter_st _ _))

/-- Settles O51: only an accepted write or an equal read-back raises an ST field, and a change of
phase clears all three or stops the block. -/
theorem verificationInvariantKept : Obligations.VerificationInvariantKept := fun _ _ h hstep =>
  step_preserves VerifyInv hstep h
    (hadvance := fun _ hu => hu) (hhost := fun _ _ _ hu => hu) (hlatch := fun _ _ hu => hu)
    (hport := fun _ _ _ hu => hu) (htick := fun _ hu => hu)
    (hcut := fun _ _ hphase hu => verifyInv_of_cleared (hu.2 (.inl hphase)))
    (hkill := fun _ hu => hu.killed) (hraise := fun _ _ _ _ _ => verifyInv_of_stopped rfl)
    (hreset := fun _ _ => verifyInv_of_cleared fun p => by cases p <;> rfl)
    (hend := fun _ _ => verifyInv_of_stopped rfl) (heffect := fun i _ _ _ _ _ _ _ hu => hu.effect i)

/-! ### The configuration is locked (10_state R24) -/

/-- The CFG_* registers are as given, and the block is out of IDLE. -/
def CfgLocked (c : LinkConfig) (s : State) : Prop := s.cfg = c ∧ s.status.phase ≠ .idle

theorem CfgLocked.congr {c : LinkConfig} {s t : State} (h : CfgLocked c s) (hcfg : t.cfg = s.cfg)
    (hphase : t.status.phase = s.status.phase ∨ t.status.phase ≠ .idle) : CfgLocked c t :=
  ⟨hcfg.trans h.1, hphase.elim (fun hp => hp ▸ h.2) id⟩

theorem CfgLocked.raise {c : LinkConfig} {s : State} (h : CfgLocked c s) (e : ErrCode) :
    CfgLocked c (s.raise e) :=
  h.congr (by simp) (.inr (by simp))

theorem CfgLocked.killed {c : LinkConfig} {s : State} (h : CfgLocked c s) :
    CfgLocked c s.killed := by
  rcases killed_cases s with ⟨_, hk⟩ | ⟨_, hk⟩ <;> rw [hk]
  · exact h
  · exact h.congr (by simp) (.inr (by simp))

theorem CfgLocked.effect {c : LinkConfig} {s : State} (h : CfgLocked c s) (i : Instr) :
    CfgLocked c (effect i s) :=
  effect_preserves (CfgLocked c) i s h
    (hraise := fun _ e hu _ _ => hu.raise e) (hcfg := fun hidle => absurd hidle h.2)
    (hdreg := fun _ _ hu => hu) (htxw := fun _ _ _ _ => h) (hdac := fun _ _ hu => hu)
    (hwait := fun _ _ _ => h) (hnow := h) (hsettle := fun _ _ hu => hu)
    (hopen := fun _ _ => h.congr rfl (.inr (by simp)))
    (hwrite := fun p _ _ => h.congr rfl (.inl (by simp)))
    (hread := fun p v _ _ => ⟨h.congr (by simp) (.inr (by simp)),
      fun _ => h.congr (by simp) (.inl (by simp))⟩)
    (hxfer := fun _ _ _ _ _ _ _ => h) (hclose := fun _ => h.congr rfl (.inr (by simp)))

/-- Settles O54: LDCFG is the one command that writes CFG_*, and it runs in IDLE only. -/
theorem configurationIsLocked : Obligations.ConfigurationIsLocked := fun s _ hphase harr hstep =>
  step_preserves (CfgLocked s.cfg) hstep ⟨rfl, hphase⟩
    (hadvance := fun _ hu => hu) (hhost := fun _ _ _ hu => hu) (hlatch := fun _ _ hu => hu)
    (hport := fun _ _ _ hu => hu) (htick := fun _ hu => hu) (hcut := fun _ _ _ hu => hu)
    (hkill := fun _ hu => hu.killed) (hraise := fun _ e hu _ _ => hu.raise e)
    (hreset := fun hreset _ => absurd hreset harr)
    (hend := fun _ hu => hu.congr (by simp) (.inr (by simp)))
    (heffect := fun i _ _ _ _ _ _ _ hu => hu.effect i)

/-! ### WIRE_LOG is append-only (10_state R44) -/

/-- A log is another one, or that one with an entry of the given configuration at its end. -/
def ExtendsLog (c : LinkConfig) (l l' : List WireEntry) : Prop :=
  l' = l ∨ ∃ e, l' = l ++ [e] ∧
    e.mode = c.mode ∧ e.bpw = c.bpw ∧ e.speed = c.speed ∧ e.delay = c.delay

theorem extendsLog_refl (c : LinkConfig) (l : List WireEntry) : ExtendsLog c l l := .inl rfl

theorem extendsLog_entry (s : State) (w : Half) (o : WireOutcome) (miso : Option Half) :
    ExtendsLog s.cfg s.wireLog (s.wireLog ++ [s.entry w o miso]) :=
  .inr ⟨_, rfl, rfl, rfl, rfl, rfl⟩

theorem extendsLog_killWaiting (s : State) :
    ExtendsLog s.cfg s.wireLog s.killWaiting.wireLog := by
  rcases killWaiting_cases s with ⟨_, h⟩ | ⟨d, _, h⟩ | ⟨r, _, _, h⟩ <;> rw [h]
  · exact extendsLog_refl _ _
  · exact extendsLog_entry _ _ _ _
  · exact extendsLog_refl _ _

theorem extendsLog_killed (s : State) : ExtendsLog s.cfg s.wireLog s.killed.wireLog := by
  rcases killed_cases s with ⟨_, hk⟩ | ⟨_, hk⟩ <;> rw [hk]
  · exact extendsLog_refl _ _
  · simpa using extendsLog_killWaiting s

theorem extendsLog_effect (i : Instr) (s : State) :
    ExtendsLog s.cfg s.wireLog (effect i s).wireLog := by
  have hsame : ExtendsLog s.cfg s.wireLog s.wireLog := extendsLog_refl _ _
  exact effect_preserves (fun u => ExtendsLog s.cfg s.wireLog u.wireLog) i s hsame
    (hraise := fun u e hu _ _ => by rwa [raise_wireLog]) (hcfg := fun _ => hsame)
    (hdreg := fun _ _ hu => hu) (htxw := fun _ _ _ _ => hsame) (hdac := fun _ _ hu => hu)
    (hwait := fun _ _ _ => hsame) (hnow := hsame) (hsettle := fun _ _ hu => hu)
    (hopen := fun _ _ => hsame) (hwrite := fun _ _ _ => hsame)
    (hread := fun _ _ _ _ => ⟨by simpa using hsame, fun _ => by simpa using hsame⟩)
    (hxfer := fun w o m _ _ _ _ => extendsLog_entry s w o m) (hclose := fun _ => hsame)

theorem usageStopped_wireLog (s : State) : s.usageStopped.wireLog = s.wireLog := by
  rcases usageStopped_cases s with ⟨_, h⟩ | ⟨_, h⟩ <;> simp [h]

theorem illegal_wireLog (s : State) : s.illegal.wireLog = s.wireLog := by
  rcases command_cases s true (fun t => t.raise .illegalCommand) with
    ⟨_, h⟩ | ⟨_, _, h⟩ | ⟨_, _, h⟩ <;> simp [State.illegal, h]

/-- Settles O55: only an XFER and a kill of one log, one entry each under the present CFG_*. -/
theorem wireLogIsAppendOnly : Obligations.WireLogIsAppendOnly := by
  intro s t harr hstep
  change ExtendsLog s.cfg s.wireLog t.wireLog
  rcases step_cases s with ⟨_, h⟩ | ⟨_, h⟩ | ⟨hreset, _⟩ | ⟨w, _, h⟩ | ⟨_, h⟩ |
    ⟨_, _, r, _, h⟩ | ⟨_, _, _, h⟩ | ⟨_, _, _, c, i, _, h⟩ | ⟨_, _, _, c, h⟩
  case inr.inr.inl => exact absurd hreset harr
  all_goals rw [h] at hstep; cases hstep
  · exact extendsLog_killed s.advance
  · exact .inl (usageStopped_wireLog _)
  · exact extendsLog_refl _ _
  · exact extendsLog_refl _ _
  · simpa using extendsLog_effect (reqInstr r) s.advance
  · exact .inl (endRun_wireLog _)
  · simpa using extendsLog_effect i (s.advance.present c)
  · exact .inl (by rw [illegal_wireLog, present_wireLog, advance_wireLog])

/-! ### Only a verified configuration transfers (43_transfer R190) -/

/-- XFER logs only in OPEN with all three parameters verified. -/
theorem verified_of_xfer_logs {s : State} (h : (effect .xfer s).wireLog ≠ s.wireLog) :
    s.status.phase = .opened ∧ ∀ p, s.status.st p = .verified := by
  rw [effect_xfer] at h
  rcases command_cases s (s.isOpen && s.status.allVerified) State.transfer with
    ⟨_, hc⟩ | ⟨_, hpre, _⟩ | ⟨_, _, hc⟩
  · exact absurd (by rw [hc]) h
  · obtain ⟨hopen, hver⟩ := Bool.and_eq_true_iff.mp hpre
    obtain ⟨hmode, hbpw, hspd⟩ := (allVerified_iff _).mp hver
    exact ⟨(isOpen_iff s).mp hopen, fun p => by cases p <;> assumption⟩
  · exact absurd (by rw [hc, raise_wireLog]) h

/-- Settles O56: XFER's precondition is ST = 2 for each parameter, and the invariant says what it
stands for. -/
theorem transferOnlyWhenVerified : Obligations.TransferOnlyWhenVerified := by
  intro s t hinv hexec hlog p
  rw [exec_effect] at hexec
  cases hexec
  obtain ⟨hopen, hver⟩ := verified_of_xfer_logs hlog
  obtain ⟨hwrote, hrb⟩ := hinv.1 hopen p
  exact ⟨hwrote ((wasWritten_iff _).mpr (.inr (hver p))), hrb (hver p)⟩

/-! ### Reset (10_state R49) -/

/-- Settles O43: the reset state is a constant, and its registers compute. -/
theorem resetValues : Obligations.ResetValues :=
  ⟨rfl, rfl, rfl, rfl, rfl, rfl, rfl, rfl, rfl, rfl, rfl, rfl, rfl, rfl, rfl, rfl⟩

theorem handleInv_reset : HandleInv State.reset := handleInv_of_not_held nofun rfl

theorem wordInv_reset : WordInv State.reset := ⟨nofun, nofun, nofun⟩

theorem stopInv_reset : StopInv State.reset :=
  (stopInv_iff_of_running (by decide)).mpr ⟨rfl, rfl, rfl, rfl⟩

theorem verifyInv_reset : VerifyInv State.reset :=
  verifyInv_of_cleared fun p => by cases p <;> rfl

theorem waitInv_reset : WaitInv State.reset := fun _ hwait => nomatch hwait

/-- Settles O53: at reset the block is IDLE with every ST field 0, no handle, an empty log and
nothing in flight. -/
theorem invariantsAtReset : Obligations.InvariantsAtReset :=
  ⟨handleInv_reset, wordInv_reset, stopInv_reset, verifyInv_reset, waitInv_reset⟩

/-! ### The host presents a command (45_host_sequences R231) -/

theorem present_hold {c : HostCmd} (s : State) (h : c.vin = .hold) :
    s.present c = { s with cfgIn := c.cfgIn.getD s.cfgIn } := by
  simp [State.present, h]

theorem present_value {c : HostCmd} {v : F64Bits} (s : State) (h : c.vin = .value v) :
    s.present c = { s with cfgIn := c.cfgIn.getD s.cfgIn, vin := v } := by
  simp [State.present, h]

theorem present_prompt {c : HostCmd} (s : State) (h : c.vin = .prompt) :
    s.present c =
      { s.tick with cfgIn := c.cfgIn.getD s.cfgIn, vin := (s.peek .prompt).volts } := by
  simp only [State.present, h]
  rfl

/-- Settles O45: the step is `step_command`, and `present` sets the ports by the source of VIN. -/
theorem stepRunsDecodedCommand : Obligations.StepRunsDecodedCommand := by
  refine ⟨fun s p c i harr hphase hwait hhost hcmd hdec => ?_, fun _ => rfl, fun _ => ⟨rfl, rfl⟩,
    fun s c => ⟨c.cfgIn.getD s.cfgIn, fun x hx => by simp [hx], fun hnone => by simp [hnone],
      present_hold s, fun _ => present_value s, present_prompt s⟩⟩
  rw [step_command harr hphase hwait hhost hcmd hdec, exec_effect, finishCommand]

/-! ### The fields of STATUS (10_state R37) -/

/-- The cast of the assembled word is to its own width. -/
theorem extractLsb'_word (u : Status) (start len : Nat) : u.word.extractLsb' start len =
    (0#8 ++ u.err.code ++ 0#6 ++ BitVec.ofBool u.faultClass ++ BitVec.ofBool u.killed
      ++ u.spdSt.code ++ u.bpwSt.code ++ u.modeSt.code ++ u.phase.code).extractLsb' start len :=
  congrArg (BitVec.extractLsb' start len) (BitVec.setWidth_eq _)

/-- A bit of STATUS is a field of width 1. -/
theorem getLsbD_word (u : Status) (i : Nat) :
    u.word.getLsbD i = (u.word.extractLsb' i 1).getLsbD 0 := by
  simp

/-- Settles O57: STATUS is the concatenation of its fields, so a field is taken by dropping those
below it and those above it. -/
theorem statusLayout : Obligations.StatusLayout := by
  refine ⟨fun u => ?_, rfl, rfl, rfl⟩
  simp (disch := omega) only [getLsbD_word, extractLsb'_word,
    BitVec.extractLsb'_append_eq_of_add_le, BitVec.extractLsb'_append_eq_of_le,
    BitVec.extractLsb'_eq_self, Nat.reduceSub]
  simp

/-! ### ECHO and the read port (10_state R42, R50) -/

theorem echoField_eq_extractLsb' (w : Half) : echoField w = w.extractLsb' 2 10 := by
  rw [echoField, BitVec.setWidth_and, BitVec.setWidth_ushiftRight_eq_extractLsb,
    show (0x3FF#16).setWidth 10 = BitVec.allOnes 10 from rfl, BitVec.and_allOnes]

theorem shows_rdOption {n : Nat} (o : Option (BitVec n)) : Shows (rdOption o) o :=
  ⟨fun v hv => by rw [hv, rdOption], fun hnone => by rw [hnone, rdOption]⟩

/-- Settles O58: ECHO is a view of RXW, and each register that may hold no value is shown by
`rdOption`. -/
theorem echoIsFieldOfRxw : Obligations.EchoIsFieldOfRxw := by
  intro s
  refine ⟨fun w hw => ?_, fun hnone => ?_, rfl, rfl, rfl, rfl, rfl, shows_rdOption _,
    shows_rdOption _, shows_rdOption _, shows_rdOption _, shows_rdOption _, shows_rdOption _,
    shows_rdOption _, rfl, shows_rdOption _, rfl⟩
  · rw [State.echo, hw, Option.map_some, echoField_eq_extractLsb']
  · rw [State.echo, hnone, Option.map_none]

end Machine
end Sys2Proof
end

section
/-!
PROOF. The buffers of a transfer (20_memory R60, R61), and the invariant of the command that waits
(20_memory R66).
-/

namespace Sys2Proof
namespace Machine

/-! ### The transfer buffers (20_memory R60, R61) -/

theorem bufWord_bufBytes (e : Endian) (w : Half) : bufWord e (bufBytes e w) = some w := by
  have hbytes : w.extractLsb' 8 8 ++ w.extractLsb' 0 8 = w :=
    BitVec.extractLsb'_append_extractLsb' (w := 8) (len := 8)
  cases e <;> simp [bufWord, bufBytes, hbytes]

theorem bufBytes_length (e : Endian) (w : Half) : (bufBytes e w).length = 2 := by
  cases e <;> rfl

/-- Settles O32: in either order the controller puts the high byte back above the low byte. -/
theorem bufferOrderDoesNotShow : Obligations.BufferOrderDoesNotShow := fun e w =>
  ⟨bufWord_bufBytes e w, bufBytes_length e w⟩

/-! ### The command that waits (20_memory R66, 70_reset_and_hazards R280)

A request is entered in `waiting` only by the command that makes it, which has just checked its
precondition. While it waits no other command runs, so nothing it is made of can change. -/

theorem waitInv_of_no_request {s : State} (h : s.waiting = none) : WaitInv s := by
  simp [WaitInv, h]

/-- STATUS, CFG_*, TXW and the request alone decide the invariant. -/
theorem WaitInv.congr {s t : State} (h : WaitInv s) (hwaiting : t.waiting = s.waiting)
    (hstatus : t.status = s.status) (hcfg : t.cfg = s.cfg) (htxw : t.txw = s.txw) : WaitInv t := by
  intro r hr
  have hreq : ReqOk s r := h r (hwaiting ▸ hr)
  cases r <;> simpa only [ReqOk, hstatus, hcfg, htxw] using hreq

theorem WaitInv.killed {s : State} (h : WaitInv s) : WaitInv s.killed := by
  rcases killed_cases s with ⟨_, hk⟩ | ⟨_, hk⟩ <;> rw [hk]
  · exact h
  · exact waitInv_of_no_request rfl

theorem WaitInv.usageStopped {s : State} (h : WaitInv s) : WaitInv s.usageStopped := by
  rcases usageStopped_cases s with ⟨_, hu⟩ | ⟨_, hu⟩ <;> rw [hu]
  · exact waitInv_of_no_request (raise_waiting _ _)
  · exact h

theorem WaitInv.afterCommand {s : State} (h : WaitInv s) : WaitInv s.afterCommand :=
  h.congr (by simp) (by simp) (by simp) (by simp)

/-- Where nothing waits, a command leaves nothing waiting but a request it has checked. -/
theorem waitInv_effect {s : State} (hnone : s.waiting = none) (i : Instr) :
    WaitInv (effect i s) := by
  have h : WaitInv s := waitInv_of_no_request hnone
  refine effect_preserves WaitInv i s h
    (hraise := fun _ _ _ _ _ => waitInv_of_no_request (raise_waiting _ _))
    (hcfg := fun _ => waitInv_of_no_request hnone) (hdreg := fun _ _ hu => hu)
    (htxw := fun _ _ _ _ => waitInv_of_no_request hnone) (hdac := fun _ _ hu => hu)
    (hwait := fun r _ hreq => ?waits) (hnow := waitInv_of_no_request rfl)
    (hsettle := fun _ _ hu => hu) (hopen := fun _ _ => waitInv_of_no_request rfl)
    (hwrite := fun _ _ _ => waitInv_of_no_request rfl)
    (hread := fun _ _ _ _ => ⟨waitInv_of_no_request (raise_waiting _ _),
      fun _ => waitInv_of_no_request (by simp)⟩)
    (hxfer := fun _ _ _ _ _ _ _ => waitInv_of_no_request rfl)
    (hclose := fun _ => waitInv_of_no_request hnone)
  case waits => rintro _ ⟨⟩; exact hreq

/-! A command that asks the controller writes `waiting` without reading it, so a retry goes as if
nothing had waited (60_exceptions R257). -/

theorem raise_drop_waiting (s : State) (e : ErrCode) :
    ({ s with waiting := none } : State).raise e = s.raise e := by
  by_cases hphase : s.status.phase = .opened <;> simp [State.raise, State.releaseIfOpen, hphase]

theorem command_drop_waiting {s : State} (hphase : s.status.phase ≠ .stopped) (pre : Bool)
    {body : State → State} (hbody : body { s with waiting := none } = body s) :
    ({ s with waiting := none } : State).command pre body = s.command pre body := by
  simp only [State.command, hphase, if_false, hbody, raise_drop_waiting]

theorem ask_drop_waiting (s : State) (r : CtrlReq) (k : Draw → State → State) :
    ({ s with waiting := none } : State).ask r k = s.ask r k := rfl

theorem transfer_drop_waiting (s : State) :
    ({ s with waiting := none } : State).transfer = s.transfer := by
  simp only [State.transfer, raise_drop_waiting, ask_drop_waiting]

theorem effect_reqInstr_drop_waiting {s : State} (hphase : s.status.phase ≠ .stopped)
    (r : CtrlReq) :
    effect (reqInstr r) { s with waiting := none } = effect (reqInstr r) s := by
  have hwrite (p : Param) : ({ s with waiting := none } : State).writeParam p = s.writeParam p :=
    command_drop_waiting hphase _ rfl
  have hread (p : Param) : ({ s with waiting := none } : State).readParam p = s.readParam p :=
    command_drop_waiting hphase _ rfl
  cases r with
  | openDev _ =>
    rw [reqInstr, effect_openDev, effect_openDev]
    exact command_drop_waiting hphase _ rfl
  | write p _ => cases p <;> exact hwrite _
  | read p => cases p <;> exact hread _
  | xfer _ => exact command_drop_waiting hphase _ (transfer_drop_waiting s)

/-- The retry of a request leaves nothing waiting but a request checked anew. -/
theorem waitInv_retry {s : State} (hphase : s.status.phase ≠ .stopped) (r : CtrlReq) :
    WaitInv (effect (reqInstr r) s) :=
  effect_reqInstr_drop_waiting hphase r ▸ waitInv_effect rfl (reqInstr r)

/-- Settles O52: what arrives leaves the request as it is or drops it, and a command runs only
where nothing waits or as the retry of what waits. -/
theorem waitInvariantKept : Obligations.WaitInvariantKept := by
  intro s t h hstep
  rcases step_cases s with ⟨_, hs⟩ | ⟨_, hs⟩ | ⟨_, hs⟩ | ⟨w, _, hs⟩ | ⟨_, hs⟩ |
    ⟨_, hphase, r, _, hs⟩ | ⟨_, _, hnone, hs⟩ | ⟨_, _, hnone, c, i, _, hs⟩ |
    ⟨_, hphase, _, c, hs⟩ <;> rw [hs] at hstep <;> cases hstep
  · exact WaitInv.killed (s := s.advance) h
  · exact WaitInv.usageStopped (s := s.advance) h
  · exact waitInv_of_no_request rfl
  · exact h
  · exact h
  · exact (waitInv_retry (s := s.advance) hphase r).afterCommand
  · exact waitInv_of_no_request (by simpa using hnone)
  · exact (waitInv_effect (s := s.advance.present c) (by simpa using hnone) i).afterCommand
  · rw [State.illegal, command_run (by simpa using hphase) rfl]
    exact waitInv_of_no_request (raise_waiting _ _)

end Machine
end Sys2Proof
end

section
/-!
PROOF. The decoder and the encoder are inverse to each other (30_encoding R80, R84 to R91), and a
word that is no command raises ILLEGAL_COMMAND (60_exceptions R242).
-/

namespace Sys2Proof

/-! ### Decoding an assembled word -/

/-- OP of one of the eleven operations with no immediate (30_encoding R85, R88). -/
abbrev IsPlainOp (op : BitVec 4) : Prop :=
  1 ≤ op.toNat ∧ op.toNat ≤ 9 ∨ op = 0xC#4 ∨ op = 0xD#4

theorem isPlainOp_of_ne : ∀ op : BitVec 4, op ≠ 0x0#4 → op ≠ 0xE#4 → op ≠ 0xF#4 → op ≠ 0xA#4 →
    op ≠ 0xB#4 → IsPlainOp op := by
  decide

theorem isCommand_plainOp : ∀ op : BitVec 4, (plainOp op).isCommand = true := by
  decide

/-- The OP of each operation with no immediate (R85). -/
theorem exists_plainOp_of_isPlain {i : Instr} (h : i.isPlain = true) :
    ∃ op, IsPlainOp op ∧ i = plainOp op := by
  cases i with
  | ldcfg => exact ⟨0x1#4, by decide, rfl⟩
  | openDev => exact ⟨0x2#4, by decide, rfl⟩
  | wrmode => exact ⟨0x3#4, by decide, rfl⟩
  | rdmode => exact ⟨0x4#4, by decide, rfl⟩
  | wrbpw => exact ⟨0x5#4, by decide, rfl⟩
  | rdbpw => exact ⟨0x6#4, by decide, rfl⟩
  | wrspd => exact ⟨0x7#4, by decide, rfl⟩
  | rdspd => exact ⟨0x8#4, by decide, rfl⟩
  | conv => exact ⟨0x9#4, by decide, rfl⟩
  | xfer => exact ⟨0xC#4, by decide, rfl⟩
  | close => exact ⟨0xD#4, by decide, rfl⟩
  | _ => cases h

theorem encode_plainOp : ∀ op : BitVec 4, IsPlainOp op →
    encode (plainOp op) = .hc32 (hc32Of op 0#12 0#16) := by
  decide

theorem decodeHc32_plainOp : ∀ op : BitVec 4, IsPlainOp op →
    decodeHc32 (hc32Of op 0#12 0#16) = .ok (plainOp op) := by
  decide

theorem decodeHc32_ldd (imm : Half) : decodeHc32 (hc32Of 0xA#4 0#12 imm) = .ok (.ldd imm) := by
  simp [decodeHc32]

theorem decodeHc32_enc : ∀ ch buf g2x : Bool,
    decodeHc32 (hc32Of 0xB#4 0#12 (encImm ch buf g2x)) = .ok (.enc ch buf g2x) := by
  decide

theorem decodeHc32_reservedOp0 (low : BitVec 28) :
    decodeHc32 (reservedOf 0x0#4 low) = .ok (.reservedOp0 low) := by
  simp [decodeHc32]

theorem decodeHc32_reservedOpE (low : BitVec 28) :
    decodeHc32 (reservedOf 0xE#4 low) = .ok (.reservedOpE low) := by
  simp [decodeHc32]

theorem decodeHc32_reservedOpF (low : BitVec 28) :
    decodeHc32 (reservedOf 0xF#4 low) = .ok (.reservedOpF low) := by
  simp [decodeHc32]

theorem decodeCw16_cw16Of (ch buf gaN : Bool) (data : BitVec 10) :
    decodeCw16 (cw16Of ch buf gaN data) = .ok (.dacwr ch buf gaN data) := by
  rw [decodeCw16, if_pos ⟨act_cw16Of .., low_cw16Of ..⟩, ch_cw16Of, buf_cw16Of, gaN_cw16Of,
    data_cw16Of]

/-- Settles O1: each instruction's word is assembled from fields that the decoder reads back. -/
theorem decodeOfEncode : Obligations.DecodeOfEncode := by
  intro i
  by_cases hplain : i.isPlain = true
  · obtain ⟨op, hop, rfl⟩ := exists_plainOp_of_isPlain hplain
    rw [encode_plainOp op hop]
    exact decodeHc32_plainOp op hop
  cases i with
  | ldd imm => exact decodeHc32_ldd imm
  | enc ch buf g2x => exact decodeHc32_enc ch buf g2x
  | reservedOp0 low => exact decodeHc32_reservedOp0 low
  | reservedOpE low => exact decodeHc32_reservedOpE low
  | reservedOpF low => exact decodeHc32_reservedOpF low
  | dacwr ch buf gaN data => exact decodeCw16_cw16Of ch buf gaN data
  | _ => exact absurd rfl hplain

/-! ### Encoding a decoded word -/

theorem encode_of_decodeHc32 {w : Word} {i : Instr} (h : decodeHc32 w = .ok i) :
    encode i = .hc32 w := by
  have hlow := reservedOf_fields w
  have hfields := hc32Of_fields w
  unfold decodeHc32 at h
  split_ifs at h with h0 hE hF hrsv hA hB himm himm <;> cases h
  · rw [encode, ← h0, hlow]
  · rw [encode, ← hE, hlow]
  · rw [encode, ← hF, hlow]
  · rw [encode, ← hA, ← not_not.mp hrsv, hfields]
  · rw [encode, encImm_flags (not_not.mp himm), ← hB, ← not_not.mp hrsv, hfields]
  · rw [encode_plainOp _ (isPlainOp_of_ne _ h0 hE hF hA hB), ← not_not.mp hrsv, ← not_not.mp himm,
      hfields]

theorem encode_of_decodeCw16 {w : Half} {i : Instr} (h : decodeCw16 w = .ok i) :
    encode i = .cw16 w := by
  unfold decodeCw16 at h
  split_ifs at h with hw
  cases h
  rw [encode, cw16Of_fields hw.1 hw.2]

/-- Settles O2: a word of either format is assembled from the fields its reading is made of. -/
theorem encodeOfDecode : Obligations.EncodeOfDecode := by
  intro w i h
  cases w with
  | hc32 _ => exact encode_of_decodeHc32 h
  | cw16 _ => exact encode_of_decodeCw16 h

theorem decodeHc32_eq_ok_iff {w : Word} {i : Instr} :
    decodeHc32 w = .ok i ↔ encode i = .hc32 w :=
  ⟨encode_of_decodeHc32, fun h => show decode (.hc32 w) = .ok i from h ▸ decodeOfEncode i⟩

/-! ### The words that are commands (30_encoding R91) -/

theorem extractLsb'_immField (w : Word) :
    (immField w).extractLsb' 3 13 = w.extractLsb' 3 13 :=
  BitVec.extractLsb'_extractLsb'_of_le (by decide)

theorem high_encImm : ∀ ch buf g2x : Bool, (encImm ch buf g2x).extractLsb' 3 13 = 0#13 := by
  decide

/-- The fields of a command's word, by its form: LDD, ENC, or an operation with no immediate. -/
def HasCommandFields (w : Word) : Prop :=
  rsvField w = 0#12 ∧ (opField w = 0xA#4 ∨
    (opField w = 0xB#4 ∧ (immField w).extractLsb' 3 13 = 0#13) ∨
    (IsPlainOp (opField w) ∧ immField w = 0#16))

theorem hasCommandFields_of_encode {w : Word} {i : Instr} (hword : encode i = .hc32 w)
    (hcmd : i.isCommand = true) : HasCommandFields w := by
  by_cases hplain : i.isPlain = true
  · obtain ⟨op, hop, rfl⟩ := exists_plainOp_of_isPlain hplain
    rw [encode_plainOp op hop] at hword
    cases hword
    simp [HasCommandFields, hop]
  cases i with
  | ldd imm =>
    cases hword
    simp [HasCommandFields]
  | enc ch buf g2x =>
    cases hword
    simp [HasCommandFields, high_encImm]
  | _ => exact absurd hcmd hplain

theorem exists_command_of_hasCommandFields {w : Word} (h : HasCommandFields w) :
    ∃ i, encode i = .hc32 w ∧ i.isCommand = true := by
  obtain ⟨hrsv, hform⟩ := h
  have hw : hc32Of (opField w) 0#12 (immField w) = w := hrsv ▸ hc32Of_fields w
  rcases hform with hA | ⟨hB, himm⟩ | ⟨hop, himm⟩
  · exact ⟨.ldd (immField w), by rw [encode, ← hA, hw], rfl⟩
  · exact ⟨.enc _ _ _, by rw [encode, encImm_flags himm, ← hB, hw], rfl⟩
  · exact ⟨plainOp (opField w), by rw [encode_plainOp _ hop, ← himm, hw], isCommand_plainOp _⟩

/-- Settles O3: a command's word has those fields, and a word with them is assembled from them. -/
theorem legalCommandWords : Obligations.LegalCommandWords := by
  intro w
  rw [← extractLsb'_immField]
  simp only [decodeHc32_eq_ok_iff]
  exact ⟨fun ⟨_, hword, hcmd⟩ => hasCommandFields_of_encode hword hcmd,
    exists_command_of_hasCommandFields⟩

/-- Settles O4: each is a closed word. -/
theorem decodedWords : Obligations.DecodedWords := by
  unfold Obligations.DecodedWords
  decide

namespace Machine

/-! ### Illegal words (30_encoding R89, R90, 60_exceptions R242) -/

theorem illegal_running {s : State} (h : s.status.phase ≠ .stopped) :
    s.illegal = s.raise .illegalCommand :=
  command_run h rfl

/-- Settles O36: each reserved operation has the effect of an illegal word. -/
theorem reservedOperationsRaise : Obligations.ReservedOperationsRaise := by
  intro s low h
  rw [← illegal_running h]
  exact ⟨rfl, rfl, rfl⟩

theorem wfOn_cmd_of_decodeHc32 {w : Word} {i : Instr} (h : decodeHc32 w = .ok i) :
    i.wfOn .cmd = true := by
  cases i with
  | dacwr => cases encode_of_decodeHc32 h
  | _ => rfl

/-- On CMD, what is no command is a reserved operation. -/
theorem effect_not_command {i : Instr} (hport : i.wfOn .cmd = true) (hcmd : i.isCommand = false)
    (s : State) : effect i s = s.illegal := by
  cases i with
  | reservedOp0 low => rfl
  | reservedOpE low => rfl
  | reservedOpF low => rfl
  | dacwr => cases hport
  | _ => cases hcmd

theorem afterCommand_stopped {s : State} (h : s.status.phase = .stopped) : s.afterCommand = s := by
  simp [State.afterCommand, h]

/-- A word that the host issues and that is none of the 13 commands raises ILLEGAL_COMMAND, whether
it decodes to a reserved operation or to an error (R91). -/
theorem step_not_command {s : State} {p : HostProgram} {c : HostCmd} (harr : s.arrival = none)
    (hphase : s.status.phase ≠ .stopped) (hwait : s.waiting = none) (hhost : s.host = some p)
    (hcmd : p.cmds[p.hpc]? = some c)
    (hno : ¬ ∃ i, decodeHc32 c.word = .ok i ∧ i.isCommand = true) :
    step s = .next ((s.advance.present c).raise .illegalCommand) := by
  have hillegal : (s.advance.present c).illegal = (s.advance.present c).raise .illegalCommand :=
    illegal_running (by simpa using hphase)
  cases hdec : decodeHc32 c.word with
  | error e => rw [step_illegal harr hphase hwait hhost hcmd hdec, hillegal]
  | ok i =>
    have hi : i.isCommand = false := by simpa using fun h => hno ⟨i, hdec, h⟩
    rw [step_command harr hphase hwait hhost hcmd hdec,
      effect_not_command (wfOn_cmd_of_decodeHc32 hdec) hi, hillegal, afterCommand_stopped rfl]

/-- Settles O37: none of these words is a command, by which words are (O3). -/
theorem reservedBitsRaise : Obligations.ReservedBitsRaise := by
  intro s p c harr hwait hphase hhost hcmd hbad
  refine step_not_command harr hphase hwait hhost hcmd fun hlegal => ?_
  obtain ⟨hrsv, hform⟩ := (legalCommandWords c.word).mp hlegal
  rcases hbad with hne | ⟨hB, himm⟩ | ⟨hA, hB, himm⟩
  · exact hne hrsv
  · simp [hB, himm] at hform
  · simp [hA, hB, himm] at hform

/-! ### The Word Encoder's words (30_encoding R80, R86) -/

theorem hc32Of_ldd (imm : Half) : hc32Of 0xA#4 0#12 imm = 0xA0000000#32 ||| imm.setWidth 32 := by
  rw [hc32Of, BitVec.setWidth_eq, BitVec.append_def, BitVec.setWidth'_eq]
  rfl

/-- Settles O5: the word is assembled as LDD's, and LDD's body runs in every phase but STOPPED. -/
theorem lddLoadsImmediate : Obligations.LddLoadsImmediate := by
  refine fun s imm => ⟨?_, fun h => ?_⟩
  · rw [← hc32Of_ldd, decodeHc32_ldd]
  · rw [exec_effect, effect_ldd, command_run h rfl]

/-- Settles O10: ENC packs a CW16 word, which the DAC's decoder reads field by field. -/
theorem encodedWordIsDacwr : Obligations.EncodedWordIsDacwr := by
  intro ch buf g2x d
  rw [encWord_eq_cw16Of, decodeCw16_cw16Of]

end Machine
end Sys2Proof
end

section
/-!
PROOF. The Word Encoder (40_encoder R112 to R117, R119, R120): what ENC writes to TXW, what the bits
of that word are, and which words the encoder gives.
-/

namespace Sys2Proof
namespace Machine

/-! ### The data field and the masks (40_encoder R113) -/

/-- The low ten bits are the value modulo 1024. -/
theorem extractLsb'_zero_ten_eq_iff {m n : Half} :
    m.extractLsb' 0 10 = n.extractLsb' 0 10 ↔ m.toNat % 1024 = n.toNat % 1024 := by
  simp [← BitVec.toNat_inj]

theorem and_0x3FF (d : Half) : d &&& 0x3FF#16 = (d.extractLsb' 0 10).setWidth 16 := by
  refine BitVec.eq_of_toNat_eq ?_
  rw [BitVec.toNat_and, BitVec.toNat_setWidth_of_le (by decide), BitVec.extractLsb'_toNat]
  exact Nat.and_two_pow_sub_one_eq_mod d.toNat 10

/-- Bits 11:2 alone are the word shifted down, masked to ten bits and shifted back. -/
theorem and_0x0FFC (w : Half) : w &&& 0x0FFC#16 = (w.extractLsb' 2 10).setWidth 16 <<< 2 := by
  have hfield : (w >>> 2) &&& 0x3FF#16 = (w.extractLsb' 2 10).setWidth 16 := by
    rw [and_0x3FF, ← BitVec.setWidth_eq_extractLsb' (by decide),
      BitVec.setWidth_ushiftRight_eq_extractLsb]
  rw [← hfield, BitVec.shiftLeft_and_distrib, BitVec.shiftLeft_ushiftRight, BitVec.and_assoc]
  rfl

/-! ### What ENC does (40_encoder R112, 60_exceptions R241) -/

theorem encode_written {s : State} {d : Half} (h : s.dreg = some d) (ch buf g2x : Bool) :
    s.encode ch buf g2x =
      { s with txw := some (cw16Of ch buf (!g2x) (d.extractLsb' 0 10)) } := by
  rw [State.encode, h, ← encWord_eq_cw16Of]

theorem encode_unwritten {s : State} (h : s.dreg = none) (ch buf g2x : Bool) :
    s.encode ch buf g2x = s.raise .unwritten := by
  rw [State.encode, h]

theorem exec_enc_running {s : State} (h : s.status.phase ≠ .stopped) (ch buf g2x : Bool) :
    exec (.enc ch buf g2x) s = .next (s.encode ch buf g2x) := by
  rw [exec_effect, effect_enc, command_run h rfl]

/-- Settles O6: ENC's body runs in every phase but STOPPED, and it assembles a CW16 word. -/
theorem encPacksWord : Obligations.EncPacksWord := by
  refine fun s ch buf g2x hphase => ⟨fun d hd => ?_, fun hnone => ?_⟩
  · rw [exec_enc_running hphase, encode_written hd]
  · rw [exec_enc_running hphase, encode_unwritten hnone]

/-- Settles O7: each is a field of the CW16 word; the mask keeps the code field alone. -/
theorem encodedBits : Obligations.EncodedBits := by
  intro s ch buf g2x d hphase hd
  refine ⟨_, _, (encPacksWord s ch buf g2x hphase).1 d hd, rfl, low_cw16Of .., data_cw16Of .., ?_,
    act_cw16Of .., gaN_cw16Of .., ch_cw16Of .., buf_cw16Of ..⟩
  rw [and_0x0FFC, and_0x3FF, data_cw16Of]

/-- Settles O8: the word holds no more of DREG than its low ten bits. -/
theorem encWrapsModulo1024 : Obligations.EncWrapsModulo1024 := by
  intro s u ch buf g2x m n hs hu hm hn hmod
  refine ⟨_, _, (encPacksWord s ch buf g2x hs).1 m hm, (encPacksWord u ch buf g2x hu).1 n hn, ?_⟩
  rw [extractLsb'_zero_ten_eq_iff.mpr hmod]

/-! ### The words the encoder gives (40_encoder R120) -/

/-- Two inputs give one word exactly when their flags agree and their data agree modulo 1024: the
DAC's decoder reads the fields back. -/
theorem encWord_eq_iff {c c' v v' g g' : Bool} {m n : Half} :
    encWord c v g m = encWord c' v' g' n ↔
      c = c' ∧ v = v' ∧ g = g' ∧ m.toNat % 1024 = n.toNat % 1024 := by
  rw [← extractLsb'_zero_ten_eq_iff]
  refine ⟨fun h => ?_, fun ⟨hc, hv, hg, hdata⟩ => ?_⟩
  · have hread := congrArg decodeCw16 h
    rw [encodedWordIsDacwr, encodedWordIsDacwr] at hread
    simpa using hread
  · rw [encWord_eq_cw16Of, encWord_eq_cw16Of, hc, hv, hg, hdata]

/-- A Command Word is encoded from its own fields, the gain bit inverted. -/
theorem encWord_fields {w : Half} (h : IsCw16 w) :
    encWord (w.getLsbD 15) (w.getLsbD 14) (!w.getLsbD 13) ((w.extractLsb' 2 10).setWidth 16) =
      w := by
  obtain ⟨hact, hlow⟩ := h
  have hdata : ((w.extractLsb' 2 10).setWidth 16).extractLsb' 0 10 = w.extractLsb' 2 10 := by
    rw [BitVec.extractLsb'_setWidth_of_le (by decide), BitVec.extractLsb'_eq_self]
  rw [encWord_eq_cw16Of, hdata, Bool.not_not, cw16Of_fields hact hlow]

/-- Settles O9: data below 1024 that agree modulo 1024 are equal, and a Command Word's own fields
give it. -/
theorem encoderBijective : Obligations.EncoderBijective := by
  refine ⟨fun c c' v v' g g' m n hm hn h => ?_, fun w hw => ⟨_, _, _, _, ?_, encWord_fields hw⟩⟩
  · obtain ⟨hc, hv, hg, hmod⟩ := encWord_eq_iff.mp h
    rw [Nat.mod_eq_of_lt hm, Nat.mod_eq_of_lt hn] at hmod
    exact ⟨hc, hv, hg, BitVec.eq_of_toNat_eq hmod⟩
  · rw [BitVec.toNat_setWidth_of_le (by decide)]
    exact (w.extractLsb' 2 10).isLt

end Machine
end Sys2Proof
end

section
/-!
PROOF. CONV's arithmetic (41_conversion R130, R131, R137): a product with 1024 is exact or
overflows, and the quotient is one rounding of the exact ratio of VIN * 1024 and VREF.
-/

namespace Sys2Proof
namespace Machine

/-! ### A number that needs no rounding is left alone (00_scope R12) -/

/-- With a full mantissa, x is at most a quarter of a unit below the bottom of the binade. -/
theorem IsNearestEven.le_of_full {x : ℚ} {m : Nat} {e : Int} (h : IsNearestEven x m e)
    (hm : 2 ^ 52 ≤ m) (he : e ≠ -1074) : (2 ^ 52 - 1 / 4) * (2 : ℚ) ^ e ≤ x := by
  have hp : (0 : ℚ) < (2 : ℚ) ^ e := by positivity
  obtain hm | hm := hm.eq_or_lt
  · have hq := h.quarter_ulp hm.symm he
    rw [← hm] at hq
    push_cast at hq
    linarith
  · have hlow := (abs_le.mp h.half_ulp).1
    have hmul : (2 ^ 52 + 1 : ℚ) * (2 : ℚ) ^ e ≤ m * (2 : ℚ) ^ e := by
      gcongr
      exact_mod_cast hm
    linarith only [hlow, hmul, hp]

/-- A nearest pair has no larger exponent than a representation of x in 53 bits. -/
theorem IsNearestEven.exp_le {x : ℚ} {m a : Nat} {e k : Int} (h : IsNearestEven x m e)
    (hx : x = a * (2 : ℚ) ^ k) (ha : a < 2 ^ 53) (hk : -1074 ≤ k) : e ≤ k := by
  by_contra! hlt
  have hp : (0 : ℚ) < (2 : ℚ) ^ e := by positivity
  have hlow := h.le_of_full (h.full.resolve_right (by omega)) (by omega)
  have hup : x ≤ (2 ^ 53 - 1) * ((2 : ℚ) ^ e / 2) := by
    rw [hx, div_eq_mul_inv, ← zpow_sub_one₀ (by norm_num)]
    gcongr
    · have : (a : ℚ) + 1 ≤ 2 ^ 53 := by exact_mod_cast ha
      linarith
    · norm_num
    · omega
  linarith

/-- A number of 53 bits is its own nearest number: it is an integer in units of the last place, and
less than one from the mantissa. -/
theorem IsNearestEven.value_eq {x : ℚ} {m a : Nat} {e k : Int} (h : IsNearestEven x m e)
    (hx : x = a * (2 : ℚ) ^ k) (ha : a < 2 ^ 53) (hk : -1074 ≤ k) : (m : ℚ) * (2 : ℚ) ^ e = x := by
  have hp : (0 : ℚ) < (2 : ℚ) ^ e := by positivity
  obtain ⟨j, rfl⟩ := Int.le.dest (h.exp_le hx ha hk)
  have hunits : x = (a * 2 ^ j : Nat) * (2 : ℚ) ^ e := by
    rw [hx, zpow_add₀ (by norm_num), zpow_natCast]
    push_cast
    ring
  have hhalf := h.half_ulp
  rw [hunits, ← sub_mul, abs_mul, abs_of_pos hp, ← le_div_iff₀ hp, div_right_comm,
    div_self hp.ne'] at hhalf
  have hzero : ((a * 2 ^ j : Nat) : Int) - m = 0 :=
    Int.abs_lt_one_iff.mp (by exact_mod_cast hhalf.trans_lt one_half_lt_one)
  rw [hunits, show a * 2 ^ j = m by omega]

/-- Rounding a number of 53 bits below 2^1024 gives that number. -/
theorem roundRatio_exact (neg : Bool) {n d a : Nat} {k : Int} (hd : 0 < d)
    (hx : (n : ℚ) / d = a * (2 : ℚ) ^ k) (ha : a < 2 ^ 53) (hk : -1074 ≤ k)
    (hlt : (n : ℚ) / d < (2 : ℚ) ^ (1024 : Int)) :
    ∃ m e, roundRatio neg n d = .fin neg m e ∧ (m : ℚ) * (2 : ℚ) ^ e = (n : ℚ) / d := by
  obtain ⟨m, e, hnear, hround⟩ := roundRatio_spec neg n hd
  have hexact := hnear.value_eq hx ha hk
  refine ⟨m, e, ?_, hexact⟩
  rw [hround, if_neg]
  intro he
  have hm : 2 ^ 52 ≤ m := hnear.full.resolve_right (by omega)
  refine hlt.not_ge ?_
  calc (2 : ℚ) ^ (1024 : Int) = 2 ^ 52 * (2 : ℚ) ^ (972 : Int) := by
        rw [show (1024 : Int) = (52 : Nat) + 972 from rfl, zpow_add₀ (by norm_num), zpow_natCast]
    _ ≤ m * (2 : ℚ) ^ e := by
        gcongr
        · exact_mod_cast hm
        · norm_num
        · omega
    _ = (n : ℚ) / d := hexact

/-- Rounding a number from 2^1024 on gives an infinity. -/
theorem roundRatio_overflow (neg : Bool) {n d : Nat} (hd : 0 < d)
    (hle : (2 : ℚ) ^ (1024 : Int) ≤ (n : ℚ) / d) : roundRatio neg n d = .inf neg := by
  obtain ⟨_, hinf, _⟩ := roundingIsNearestEven neg n d hd
  exact hinf.mpr ((sub_le_self _ (by positivity)).trans hle)

/-- `roundScaled` rounds the ratio m * 2^e / n. -/
theorem roundScaled_eq (neg : Bool) (m : Nat) {n : Nat} (hn : 0 < n) (e : Int) :
    ∃ a b : Nat, 0 < b ∧ (a : ℚ) / b = (m : ℚ) / n * (2 : ℚ) ^ e ∧
      roundScaled neg m n e = roundRatio neg a b := by
  refine ⟨_, _, ?_, shiftLeft_ratio m n e, rfl⟩
  rw [Nat.shiftLeft_eq]
  positivity

/-! ### The product with 1024 (41_conversion R137) -/

/-- The product rounds exactly 1024 times the magnitude, with the sign of the factor. -/
theorem mul64_f64Of1024_fin (neg : Bool) (m : Nat) (e : Int) :
    ∃ a b : Nat, 0 < b ∧ (a : ℚ) / b = (m : ℚ) * (2 : ℚ) ^ e * 1024 ∧
      mul64 (.fin neg m e) f64Of1024 = roundRatio neg a b := by
  obtain ⟨a, b, hb, hab, hround⟩ := roundScaled_eq neg (m * 4503599627370496) one_pos (e + -42)
  refine ⟨a, b, hb, ?_, ?_⟩
  · rw [hab, zpow_add₀ (by norm_num)]
    push_cast
    ring
  · rw [f64Of1024_eq, mul64, Bool.xor_false, hround]

/-- Settles O13: the product has the factor's 53 bits, and an exponent larger by 10. -/
theorem times1024IsExact : Obligations.Times1024IsExact := by
  intro b neg m e hfin
  obtain ⟨hm, he, _⟩ := f64OfBits_range hfin
  obtain ⟨n, d, hd, hratio, hmul⟩ := mul64_f64Of1024_fin neg m e
  rw [hfin, hmul, ← hratio]
  refine ⟨fun hlt => roundRatio_exact neg hd (k := e + 10) ?_ hm (by omega) hlt,
    fun hle => roundRatio_overflow neg hd hle⟩
  rw [hratio, zpow_add₀ (by norm_num)]
  norm_num [mul_assoc]

/-! ### The operands from their bits (41_conversion R130) -/

theorem rawNegative_eq (b : F64Bits) : b.getLsbD 63 = rawNegative b := by
  rw [rawNegative, ← BitVec.msb_eq_getLsbD_last b, BitVec.msb_eq_decide]

theorem rawExponent_eq (b : F64Bits) : (b.extractLsb' 52 11).toNat = rawExponent b := by
  rw [rawExponent, BitVec.extractLsb'_toNat, Nat.shiftRight_eq_div_pow]

theorem rawFraction_eq (b : F64Bits) : (b.extractLsb' 0 52).toNat = rawFraction b := by
  rw [rawFraction, BitVec.extractLsb'_toNat, Nat.shiftRight_zero]

theorem f64OfBits_finite {b : F64Bits} (h : rawExponent b ≠ 2047) :
    ∃ m e, f64OfBits b = .fin (rawNegative b) m e ∧ (m : ℚ) * (2 : ℚ) ^ e = rawMagnitude b := by
  simp only [f64OfBits, rawNegative_eq, rawExponent_eq, rawFraction_eq, if_neg h, rawMagnitude]
  split
  · exact ⟨_, _, rfl, rfl⟩
  · exact ⟨_, _, rfl, by push_cast; norm_num⟩

theorem f64OfBits_infinite {b : F64Bits} (h : rawExponent b = 2047) (hf : rawFraction b = 0) :
    f64OfBits b = .inf (rawNegative b) := by
  simp only [f64OfBits, rawNegative_eq, rawExponent_eq, rawFraction_eq, if_pos h, if_pos hf]

theorem f64OfBits_nan {b : F64Bits} (h : rawExponent b = 2047) (hf : rawFraction b ≠ 0) :
    f64OfBits b = .nan := by
  simp only [f64OfBits, rawExponent_eq, rawFraction_eq, if_pos h, if_neg hf]

theorem product_exact {b : F64Bits} (h : rawExponent b ≠ 2047)
    (hlt : rawMagnitude b * 1024 < (2 : ℚ) ^ (1024 : Int)) :
    ∃ m e, mul64 (f64OfBits b) f64Of1024 = .fin (rawNegative b) m e ∧
      (m : ℚ) * (2 : ℚ) ^ e = rawMagnitude b * 1024 := by
  obtain ⟨m, e, hfin, hmag⟩ := f64OfBits_finite h
  rw [← hmag] at hlt ⊢
  exact (times1024IsExact b _ m e hfin).1 hlt

theorem product_overflow {b : F64Bits} (h : rawExponent b ≠ 2047)
    (hle : (2 : ℚ) ^ (1024 : Int) ≤ rawMagnitude b * 1024) :
    mul64 (f64OfBits b) f64Of1024 = .inf (rawNegative b) := by
  obtain ⟨m, e, hfin, hmag⟩ := f64OfBits_finite h
  rw [← hmag] at hle
  exact (times1024IsExact b _ m e hfin).2 hle

theorem mul64_inf_f64Of1024 (neg : Bool) : mul64 (.inf neg) f64Of1024 = .inf neg := by
  cases neg <;> rw [f64Of1024_eq] <;> rfl

/-! ### The quotient (41_conversion R131) -/

@[simp] theorem div64_nan_left (y : F64) : div64 .nan y = .nan := rfl

@[simp] theorem div64_nan_right (x : F64) : div64 x .nan = .nan := by
  cases x <;> rfl

theorem scaled_eq_zero_iff {m : Nat} {e : Int} : (m : ℚ) * (2 : ℚ) ^ e = 0 ↔ m = 0 := by
  simp [zpow_ne_zero]

theorem div64_fin_zero (s t : Bool) {m : Nat} (e f : Int) (hm : m ≠ 0) :
    div64 (.fin s m e) (.fin t 0 f) = .inf (s ^^ t) := by
  simp [div64, hm]

theorem div64_zero_zero (s t : Bool) (e f : Int) :
    div64 (.fin s 0 e) (.fin t 0 f) = .nan := rfl

/-- A quotient of finite numbers rounds their exact ratio, once. -/
theorem div64_fin (s t : Bool) (m : Nat) {n : Nat} (e f : Int) (hn : n ≠ 0) :
    ∃ a b : Nat, 0 < b ∧ (a : ℚ) / b = m * (2 : ℚ) ^ e / (n * (2 : ℚ) ^ f) ∧
      div64 (.fin s m e) (.fin t n f) = roundRatio (s ^^ t) a b := by
  obtain ⟨a, b, hb, hab, hround⟩ :=
    roundScaled_eq (s ^^ t) m (Nat.pos_of_ne_zero hn) (e - f)
  refine ⟨a, b, hb, ?_, by rw [div64, if_neg hn, hround]⟩
  rw [hab, zpow_sub₀ (by norm_num), div_mul_div_comm]

/-- An infinity by the bits of a divisor. -/
theorem div64_inf_f64OfBits (s : Bool) (b : F64Bits) :
    (rawExponent b ≠ 2047 → div64 (.inf s) (f64OfBits b) = .inf (s ^^ rawNegative b)) ∧
      (rawExponent b = 2047 → div64 (.inf s) (f64OfBits b) = .nan) := by
  refine ⟨fun h => ?_, fun h => ?_⟩
  · obtain ⟨m, e, hfin, _⟩ := f64OfBits_finite h
    rw [hfin, div64]
  · by_cases hf : rawFraction b = 0
    · rw [f64OfBits_infinite h hf, div64]
    · rw [f64OfBits_nan h hf, div64_nan_right]

/-- Settles O60: the product is exact or infinite, and the division does the one rounding. -/
theorem quotientIsRoundedRatio : Obligations.QuotientIsRoundedRatio := by
  intro vin vref
  unfold convQuotient
  refine ⟨fun hvin hvref hlt => ?finite, fun hvin hle => ?overflow, fun hvin hf => ?infinite,
    fun hvin hlt hvref hf => ?byInfinity, fun hvin hf => ?nan, fun hvref hf => ?byNan⟩
  case finite =>
    obtain ⟨m, e, hmul, hm⟩ := product_exact hvin hlt
    obtain ⟨n, f, hfin, hn⟩ := f64OfBits_finite hvref
    have hvin0 : rawMagnitude vin = 0 ↔ m = 0 := by simp [← scaled_eq_zero_iff (e := e), hm]
    have hvref0 : rawMagnitude vref = 0 ↔ n = 0 := by rw [← hn, scaled_eq_zero_iff]
    rw [hmul, hfin, Ne, Ne, hvin0, hvref0]
    refine ⟨fun hne => ?_, fun hn0 hne => ?_, fun hn0 hm0 => ?_⟩
    · obtain ⟨a, b, hb, hratio, hdiv⟩ := div64_fin (rawNegative vin) (rawNegative vref) m e f hne
      exact ⟨a, b, hb, by rw [hratio, hm, hn], hdiv⟩
    · rw [hn0, div64_fin_zero _ _ e f hne]
    · rw [hn0, hm0, div64_zero_zero]
  case overflow => exact product_overflow hvin hle ▸ div64_inf_f64OfBits _ vref
  case infinite =>
    rw [f64OfBits_infinite hvin hf, mul64_inf_f64Of1024]
    exact div64_inf_f64OfBits _ vref
  case byInfinity =>
    obtain ⟨m, e, hmul, _⟩ := product_exact hvin hlt
    rw [hmul, f64OfBits_infinite hvref hf, div64]
  case nan => rw [f64OfBits_nan hvin hf, f64Of1024_eq, mul64, div64_nan_left]
  case byNan => rw [f64OfBits_nan hvref hf, div64_nan_right]

end Machine
end Sys2Proof
end

section
/-!
PROOF. The command CONV (41_conversion R131 to R136): it truncates its quotient where the result
fits DREG, full scale gives 1024, and VREF is constant.
-/

namespace Sys2Proof
namespace Machine

/-! ### CONV truncates toward zero (41_conversion R131 to R133) -/

theorem finiteValue_true (m : Nat) (e : Int) :
    finiteValue true m e = -((m : ℚ) * (2 : ℚ) ^ e) := by
  simp [finiteValue]

theorem finiteValue_false (m : Nat) (e : Int) : finiteValue false m e = (m : ℚ) * (2 : ℚ) ^ e := by
  simp [finiteValue]

/-- The integer toward zero. -/
def truncInt (q : ℚ) : Int := if q < 0 then ⌈q⌉ else ⌊q⌋

theorem truncInt_of_nonneg {q : ℚ} (h : 0 ≤ q) : truncInt q = ⌊q⌋ := if_neg h.not_gt

theorem truncInt_eq_zero {q : ℚ} (hlow : -1 < q) (hup : q ≤ 0) : truncInt q = 0 := by
  unfold truncInt
  split
  · exact Int.ceil_eq_zero_iff.mpr ⟨hlow, hup⟩
  · exact Int.floor_eq_zero_iff.mpr ⟨by linarith, by linarith⟩

theorem truncMag_lt_iff (m : Nat) (e : Int) {n : Nat} :
    truncMag m e < n ↔ (m : ℚ) * (2 : ℚ) ^ e < n := by
  rw [truncMag_eq_floor, Nat.floor_lt (by positivity)]

/-- `codeOf` truncates toward zero on the band where the result fits DREG. -/
theorem codeOf_fin (neg : Bool) (m : Nat) (e : Int) :
    codeOf (.fin neg m e) =
      if -1 < finiteValue neg m e ∧ finiteValue neg m e < 65536 then
        some (BitVec.ofInt 16 (truncInt (finiteValue neg m e))) else none := by
  have hx : 0 ≤ (m : ℚ) * (2 : ℚ) ^ e := by positivity
  cases neg with
  | true =>
    rw [finiteValue_true, codeOf]
    have hband : truncMag m e = 0 ↔ (m : ℚ) * (2 : ℚ) ^ e < 1 := by
      rw [← Nat.lt_one_iff, truncMag_lt_iff, Nat.cast_one]
    generalize (m : ℚ) * (2 : ℚ) ^ e = x at *
    refine if_ctx_congr (hband.trans ⟨fun h => ⟨by linarith, by linarith⟩, fun h => by linarith⟩)
      (fun h => ?_) fun _ => rfl
    rw [truncInt_eq_zero h.1 (by linarith)]
    rfl
  | false =>
    rw [finiteValue_false, codeOf, truncInt_of_nonneg hx]
    refine if_ctx_congr ?_ (fun h => ?_) fun _ => rfl
    · rw [truncMag_lt_iff]
      exact ⟨fun h => ⟨by linarith, by exact_mod_cast h⟩, fun h => by exact_mod_cast h.2⟩
    · rw [truncMag_eq_floor, ← Int.natCast_floor_eq_floor hx, BitVec.ofInt_natCast]

theorem exec_conv_running {s : State} (h : s.status.phase ≠ .stopped) :
    exec .conv s = .next s.convert := by
  rw [exec_effect, effect_conv, command_run h rfl]

theorem convert_code {s : State} {c : Half} (h : codeOf (convQuotient s.vin s.vref) = some c) :
    s.convert = { s with dreg := some c } := by
  rw [State.convert, convCode, h]

theorem convert_convRange {s : State} (h : codeOf (convQuotient s.vin s.vref) = none) :
    s.convert = s.raise .convRange := by
  rw [State.convert, convCode, h]

/-- Settles O11: CONV runs `convert`, whose code is `codeOf` of the quotient. -/
theorem convTruncatesQuotient : Obligations.ConvTruncatesQuotient := by
  intro s hphase
  rw [exec_conv_running hphase]
  refine ⟨fun neg m e hq => ⟨fun hband => ?_, fun hband => ?_⟩, fun neg hq => ?_, fun hq => ?_⟩
  · rw [convert_code (by rw [hq, codeOf_fin, if_pos hband]), truncInt]
  · rw [convert_convRange (by rw [hq, codeOf_fin, if_neg hband])]
  · rw [convert_convRange (by rw [hq, codeOf])]
  · rw [convert_convRange (by rw [hq, codeOf])]

/-! ### Full scale (41_conversion R134) -/

/-- VIN = VREF gives the quotient 1024: the product is exact, and the ratio needs no rounding. -/
theorem convQuotient_self {b : F64Bits} {neg : Bool} {m : Nat} {e : Int}
    (hfin : f64OfBits b = .fin neg m e) (hm : m ≠ 0)
    (hlt : (m : ℚ) * (2 : ℚ) ^ e * 1024 < (2 : ℚ) ^ (1024 : Int)) :
    ∃ n f, convQuotient b b = .fin false n f ∧ finiteValue false n f = 1024 := by
  obtain ⟨m', e', hmul, hprod⟩ := (times1024IsExact b neg m e hfin).1 hlt
  obtain ⟨n, d, hd, hratio, hdiv⟩ := div64_fin neg neg m' e' e hm
  have hm0 : (m : ℚ) * (2 : ℚ) ^ e ≠ 0 := mt scaled_eq_zero_iff.mp hm
  have h1024 : (n : ℚ) / d = 1024 := by rw [hratio, hprod, mul_div_cancel_left₀ _ hm0]
  have hbelow : (n : ℚ) / d < (2 : ℚ) ^ (1024 : Int) := by
    calc (n : ℚ) / d < (2 : ℚ) ^ (11 : Int) := by rw [h1024]; norm_num
      _ ≤ (2 : ℚ) ^ (1024 : Int) := zpow_le_zpow_right₀ (by norm_num) (by norm_num)
  obtain ⟨a, k, hround, hak⟩ := roundRatio_exact (neg ^^ neg) (a := 1024) (k := 0) hd
    (by rw [h1024]; norm_num) (by norm_num) (by norm_num) hbelow
  refine ⟨a, k, ?_, by rw [finiteValue_false, hak, h1024]⟩
  rw [convQuotient, hmul, hfin, hdiv, hround, Bool.xor_self]

/-- Settles O14: the quotient 1024 truncates to 1024, whose low ten bits are 0. -/
theorem fullScaleWrapsToZero : Obligations.FullScaleWrapsToZero := by
  intro s ch buf g2x neg m e hphase hvin hfin hm hlt
  obtain ⟨n, f, hq, hvalue⟩ := convQuotient_self hfin hm hlt
  have hcode : codeOf (convQuotient s.vin s.vref) = some 1024#16 := by
    rw [hvin, hq, codeOf_fin, hvalue, if_pos (by norm_num), truncInt_of_nonneg (by norm_num)]
    norm_num
  refine ⟨by rw [exec_conv_running hphase, convert_code hcode], ?_⟩
  obtain ⟨t, w, hexec, htxw, -, hdata, -⟩ :=
    encodedBits { s with dreg := some 1024#16 } ch buf g2x 1024#16 hphase rfl
  exact ⟨t, w, hexec, htxw, hdata.trans (by decide)⟩

/-! ### VREF is constant (41_conversion R136) -/

theorem killed_vref (s : State) : s.killed.vref = s.vref := by
  rcases killed_cases s with ⟨_, hk⟩ | ⟨_, hk⟩ <;> simp [hk]

theorem effect_vref (i : Instr) (s : State) : (effect i s).vref = s.vref :=
  effect_preserves (fun u => u.vref = s.vref) i s rfl
    (hraise := fun u e hu _ _ => (raise_vref u e).trans hu) (hcfg := fun _ => rfl)
    (hdreg := fun _ _ hu => hu) (htxw := fun _ _ _ _ => rfl) (hdac := fun _ _ hu => hu)
    (hwait := fun _ _ _ => rfl) (hnow := rfl) (hsettle := fun _ _ hu => hu)
    (hopen := fun _ _ => rfl) (hwrite := fun _ _ _ => rfl)
    (hread := fun _ _ _ _ => ⟨by simp, fun _ => by simp⟩) (hxfer := fun _ _ _ _ _ _ _ => rfl)
    (hclose := fun _ => rfl)

/-- Settles O15: no elementary update of the state writes the field. -/
theorem vrefIsConstant : Obligations.VrefIsConstant := fun s _ hstep =>
  step_preserves (fun u => u.vref = s.vref) hstep rfl
    (hadvance := fun _ hu => hu) (hhost := fun _ _ _ hu => hu) (hlatch := fun _ _ hu => hu)
    (hport := fun _ _ _ hu => hu) (htick := fun _ hu => hu) (hcut := fun _ _ _ hu => hu)
    (hkill := fun u hu => (killed_vref u).trans hu)
    (hraise := fun u e hu _ _ => (raise_vref u e).trans hu)
    (hreset := fun _ hu => (killWaiting_vref _).trans hu)
    (hend := fun _ hu => (endRun_vref _).trans hu)
    (heffect := fun i u _ _ _ _ _ _ hu => (effect_vref i u).trans hu)

end Machine
end Sys2Proof
end

section
/-!
PROOF. The link configuration (42_link_config): LDCFG, CLOSE and OPEN, then a write and a read-back
once for any parameter, by what the controller answers, and the three parameters from it.
-/

namespace Sys2Proof
namespace Machine

/-! ### LDCFG and CLOSE (42_link_config R150, R176) -/

/-- Settles O16: LDCFG's body latches the port, and its precondition is PHASE = IDLE. -/
theorem ldcfgLatchesPort : Obligations.LdcfgLatchesPort := by
  refine fun s => ⟨fun hidle => ?_, fun hphase => ?_⟩
  · rw [exec_effect, effect_ldcfg, command_run (by simp [hidle]) (by simp [hidle])]
  · rcases hphase with h | h <;>
      rw [exec_effect, effect_ldcfg, command_sequence (by simp [h]) (by simp [h])]

/-- Settles O21: CLOSE's body asks nobody, and its precondition is an open handle. -/
theorem closeReleasesHandle : Obligations.CloseReleasesHandle := by
  refine fun s => ⟨fun hopen => ?_, fun hphase => ?_⟩
  · rw [exec_effect, effect_close, command_run (by simp [hopen]) ((isOpen_iff s).mpr hopen)]
    rfl
  · rcases hphase with h | h <;>
      rw [exec_effect, effect_close, command_sequence (by simp [h]) (by simp [State.isOpen, h])]

/-! ### OPEN (42_link_config R152) -/

theorem afterOpen_ok {a : Draw} (h : a.ok = true) (s : State) : s.afterOpen a = { s with
    status := s.status.enter .opened
    ctrl := { s.ctrl.forget.settle a with held := true } } := by
  simpa [h] using afterOpen_cases a s

theorem afterOpen_failed {a : Draw} (h : a.ok = false) (s : State) :
    s.afterOpen a = (s.settle a).raise .cfgOpen := by
  simpa [h] using afterOpen_cases a s

theorem exec_openDev_answered {s : State} {a : Draw}
    (hphase : s.status.phase = .idle ∨ s.status.phase = .closed)
    (ha : s.peek (.ctrl (.openDev s.cfg.path)) = a) (hans : a.answered = true) :
    exec .openDev s = .next (State.afterOpen a { s.tick with waiting := none }) := by
  subst ha
  have hrunning : s.status.phase ≠ .stopped := by rcases hphase with h | h <;> simp [h]
  rw [exec_effect, effect_openDev, command_run hrunning (decide_eq_true hphase), ask_answered hans]

/-- Settles O17: OPEN acts on the answer, and its precondition excludes PHASE = OPEN. -/
theorem openOpensDevice : Obligations.OpenOpensDevice := by
  refine fun s a ha => ⟨fun hphase hans => ⟨fun hok => ?_, fun hfail => ?_⟩, fun hopen => ?_⟩
  · rw [exec_openDev_answered hphase ha hans, afterOpen_ok hok]
    rfl
  · rw [exec_openDev_answered hphase ha hans, afterOpen_failed hfail]
    rfl
  · rw [exec_effect, effect_openDev, command_sequence (by simp [hopen]) (by simp [hopen])]

/-! ### Writes, for any parameter (42_link_config R156, R164, R170) -/

theorem afterWrite_ok {a : Draw} (h : a.ok = true) (p : Param) (s : State) :
    s.afterWrite p a =
      { s.setSt p .written with ctrl := (s.ctrl.settle a).accept p (cfgParam s.cfg p) } := by
  simpa [h] using afterWrite_cases p a s

theorem afterWrite_failed {a : Draw} (h : a.ok = false) (p : Param) (s : State) :
    s.afterWrite p a = (s.settle a).raise (wrError p) := by
  simpa [h] using afterWrite_cases p a s

section Write
variable {s : State} {p : Param} {a : Draw} (hopen : s.status.phase = .opened)
  (ha : s.peek (.ctrl (.write p (cfgParam s.cfg p))) = a) (hans : a.answered = true)
include hopen ha hans

theorem exec_write_answered : exec (reqInstr (.write p (cfgParam s.cfg p))) s =
    .next (State.afterWrite p a { s.tick with waiting := none }) := by
  subst ha
  have heffect : effect (reqInstr (.write p (cfgParam s.cfg p))) s = s.writeParam p := by
    cases p <;> rfl
  rw [exec_effect, heffect, State.writeParam, command_run (by simp [hopen])
    ((isOpen_iff s).mpr hopen), ask_answered hans]

theorem exec_write_ok (hok : a.ok = true) : exec (reqInstr (.write p (cfgParam s.cfg p))) s =
    .next { s.tick.setSt p .written with
      waiting := none, ctrl := (s.ctrl.settle a).accept p (cfgParam s.cfg p) } := by
  rw [exec_write_answered hopen ha hans, afterWrite_ok hok]
  rfl

theorem exec_write_failed (hfail : a.ok = false) :
    exec (reqInstr (.write p (cfgParam s.cfg p))) s =
      .next (({ s.tick with waiting := none } : State).settle a |>.raise (wrError p)) := by
  rw [exec_write_answered hopen ha hans, afterWrite_failed hfail]

end Write

/-- The controller accepts CFG_MODE at its own width. -/
theorem accept_mode (c : Ctrl) (cfg : LinkConfig) :
    c.accept .mode (cfgParam cfg .mode) = { c with wroteMode := some cfg.mode } := by
  simp [Ctrl.accept, cfgParam]

theorem accept_bpw (c : Ctrl) (cfg : LinkConfig) :
    c.accept .bpw (cfgParam cfg .bpw) = { c with wroteBpw := some cfg.bpw } := by
  simp [Ctrl.accept, cfgParam]

/-- Settles O18: the write of any parameter, at each of the three. -/
theorem writesComplete : Obligations.WritesComplete := by
  refine fun s hopen => ⟨fun a ha hans => ⟨fun hok => ?modeOk, ?modeFail⟩,
    fun a ha hans => ⟨fun hok => ?bpwOk, ?bpwFail⟩,
    fun a ha hans => ⟨?speedOk, ?speedFail⟩⟩
  case modeOk =>
    have hexec := exec_write_ok (p := .mode) hopen ha hans hok
    rwa [accept_mode] at hexec
  case modeFail => exact exec_write_failed (p := .mode) hopen ha hans
  case bpwOk =>
    have hexec := exec_write_ok (p := .bpw) hopen ha hans hok
    rwa [accept_bpw] at hexec
  case bpwFail => exact exec_write_failed (p := .bpw) hopen ha hans
  case speedOk => exact exec_write_ok (p := .speed) hopen ha hans
  case speedFail => exact exec_write_failed (p := .speed) hopen ha hans

/-! ### Read-backs, for any parameter (42_link_config R160, R166, R172) -/

theorem afterRead_equal {p : Param} {a : Draw} {s : State} (h : a.ok = true)
    (hv : readValue p a.value = cfgParam s.cfg p) :
    s.afterRead p a = (s.setRb p a.value).setSt p .verified := by
  simpa [h, hv] using afterRead_cases p a s

theorem afterRead_differs {p : Param} {a : Draw} {s : State} (h : a.ok = true)
    (hv : readValue p a.value ≠ cfgParam s.cfg p) :
    s.afterRead p a = (s.setRb p a.value).raise (mismatchError p) := by
  simpa [h, hv] using afterRead_cases p a s

theorem afterRead_failed {a : Draw} (h : a.ok = false) (p : Param) (s : State) :
    s.afterRead p a = s.raise (rdError p) := by
  simpa [h] using afterRead_cases p a s

theorem wasWritten_of_ne_none {v : VerState} (h : v ≠ .none) : v.wasWritten = true :=
  Bool.eq_true_of_not_eq_false (mt (wasWritten_eq_false_iff v).mp h)

section Read
variable {s : State} {p : Param} (hopen : s.status.phase = .opened) (hst : s.status.st p ≠ .none)
  (hans : CtrlAnswers s (.read p))
include hopen hst hans

theorem exec_read_answered : exec (reqInstr (.read p)) s =
    .next (State.afterRead p (s.peek (.ctrl (.read p))) { s.tick with waiting := none }) := by
  have heffect : effect (reqInstr (.read p)) s = s.readParam p := by cases p <;> rfl
  rw [exec_effect, heffect, State.readParam, command_run (by simp [hopen])
    (by simp [State.isOpen, hopen, wasWritten_of_ne_none hst]), ask_answered hans]

theorem exec_read_equal (hok : (s.peek (.ctrl (.read p))).ok = true)
    (hv : readValue p (s.peek (.ctrl (.read p))).value = cfgParam s.cfg p) :
    exec (reqInstr (.read p)) s =
      .next (({ s.tick with waiting := none } : State).setRb p (s.peek (.ctrl (.read p))).value
        |>.setSt p .verified) :=
  (exec_read_answered hopen hst hans).trans (congrArg _ (afterRead_equal hok hv))

theorem exec_read_differs (hok : (s.peek (.ctrl (.read p))).ok = true)
    (hv : readValue p (s.peek (.ctrl (.read p))).value ≠ cfgParam s.cfg p) :
    exec (reqInstr (.read p)) s =
      .next (({ s.tick with waiting := none } : State).setRb p (s.peek (.ctrl (.read p))).value
        |>.raise (mismatchError p)) :=
  (exec_read_answered hopen hst hans).trans (congrArg _ (afterRead_differs hok hv))

theorem exec_read_failed (hfail : (s.peek (.ctrl (.read p))).ok = false) :
    exec (reqInstr (.read p)) s =
      .next (({ s.tick with waiting := none } : State).raise (rdError p)) := by
  rw [exec_read_answered hopen hst hans, afterRead_failed hfail]

end Read

/-- Zero-extending to the width of a request keeps different bytes different. -/
theorem byte_extended_eq_iff {a b : Byte} : a.setWidth 32 = b.setWidth 32 ↔ a = b :=
  ⟨fun h => by simpa using congrArg (BitVec.setWidth 8) h, congrArg _⟩

theorem readValue_mode_eq_iff (v : Word) (cfg : LinkConfig) :
    readValue .mode v = cfgParam cfg .mode ↔ v.setWidth 8 = cfg.mode := byte_extended_eq_iff

theorem readValue_bpw_eq_iff (v : Word) (cfg : LinkConfig) :
    readValue .bpw v = cfgParam cfg .bpw ↔ v.setWidth 8 = cfg.bpw := byte_extended_eq_iff

theorem ne_none_of_written_or_verified {v : VerState} (h : v = .written ∨ v = .verified) :
    v ≠ .none := by
  rcases h with rfl | rfl <;> decide

/-- Settles O19: the equal read-back of any parameter, at each of the three. -/
theorem readBacksComplete : Obligations.ReadBacksComplete := by
  refine fun s hopen => ⟨fun hst hans hok hv => ?mode, fun hst hans hok hv => ?bpw,
    fun hst hans hok hv => ?speed⟩
  case mode =>
    rw [← hv]
    exact exec_read_equal (p := .mode) hopen (ne_none_of_written_or_verified hst) hans hok
      ((readValue_mode_eq_iff _ _).mpr hv)
  case bpw =>
    rw [← hv]
    exact exec_read_equal (p := .bpw) hopen (ne_none_of_written_or_verified hst) hans hok
      ((readValue_bpw_eq_iff _ _).mpr hv)
  case speed =>
    rw [← hv]
    exact exec_read_equal (p := .speed) hopen (ne_none_of_written_or_verified hst) hans hok hv

/-- Settles O20: the read-back of any parameter that differs or fails, at each of the three. -/
theorem readBackErrorsRaise : Obligations.ReadBackErrorsRaise := fun _ hopen =>
  ⟨fun hst hans hok hv => exec_read_differs (p := .mode) hopen hst hans hok
      (mt (readValue_mode_eq_iff _ _).mp hv),
    fun hst hans hok hv => exec_read_differs (p := .bpw) hopen hst hans hok
      (mt (readValue_bpw_eq_iff _ _).mp hv),
    exec_read_differs (p := .speed) hopen,
    exec_read_failed (p := .mode) hopen,
    exec_read_failed (p := .bpw) hopen,
    exec_read_failed (p := .speed) hopen⟩

/-! ### A faithful controller (42_link_config R180) -/

/-- In OPEN an ST field that is not 0 stands for an accepted write of the configured value. -/
theorem VerifyInv.wrote_of_st {s : State} (h : VerifyInv s) (hopen : s.status.phase = .opened)
    {p : Param} (hst : s.status.st p ≠ .none) : s.ctrl.wrote p = some (cfgParam s.cfg p) := by
  obtain ⟨hwrote, -⟩ := (verifyInv_iff_of_opened hopen).mp h p
  exact hwrote (wasWritten_of_ne_none hst)

/-- Settles O23: the controller's answer to a write is membership in the accepted set, and
its answer to a read-back is the value it accepted last, which is the configured one. -/
theorem faithfulControllerVerifies : Obligations.FaithfulControllerVerifies := by
  intro s acc p wr rd hopen hwr hrd
  have hwr : wr = reqInstr (.write p (cfgParam s.cfg p)) := by cases p <;> exact hwr
  have hrd : rd = reqInstr (.read p) := by cases p <;> exact hrd
  subst hwr hrd
  refine ⟨fun hans hfaithful => ?write, fun hinv hst hans hfaithful => ?read⟩
  case write =>
    cases hacc : acc p (cfgParam s.cfg p) with
    | true => exact ⟨_, exec_write_ok hopen rfl hans (hfaithful.trans hacc),
        fun _ => ⟨by simpa using hopen, by simp⟩, nofun⟩
    | false => exact ⟨_, exec_write_failed hopen rfl hans (hfaithful.trans hacc),
        nofun, fun _ => by simp⟩
  case read =>
    obtain ⟨hok, hv⟩ := hfaithful _ (hinv.wrote_of_st hopen hst)
    exact ⟨_, exec_read_equal hopen hst hans hok hv, by simpa using hopen, by simp⟩

end Machine
end Sys2Proof
end

section
/-!
PROOF. The transfer (43_transfer): the bits of a word on the wire and which links are nominal, then
XFER by its checks and by the count of the controller's answer.
-/

namespace Sys2Proof
namespace Machine

/-! ### The bits of a word on the wire (43_transfer R196) -/

theorem wirePos_true (k : Nat) : wirePos true k = k := rfl

theorem wirePos_false (k : Nat) : wirePos false k = 15 - k := rfl

theorem wirePos_lt {k : Nat} (lsb : Bool) (hk : k < 16) : wirePos lsb k < 16 := by
  cases lsb with
  | true => rwa [wirePos_true]
  | false => rw [wirePos_false]; omega

/-- The order of the bits is its own inverse. -/
theorem wirePos_wirePos {k : Nat} (lsb : Bool) (hk : k < 16) :
    wirePos lsb (wirePos lsb k) = k := by
  cases lsb with
  | true => rw [wirePos_true, wirePos_true]
  | false => rw [wirePos_false, wirePos_false]; omega

theorem wirePos_eq_comm {i k : Nat} (lsb : Bool) (hi : i < 16) (hk : k < 16) :
    wirePos lsb k = i ↔ wirePos lsb i = k :=
  ⟨fun h => h ▸ wirePos_wirePos lsb hk, fun h => h ▸ wirePos_wirePos lsb hi⟩

theorem getElem?_wireBits {k : Nat} (lsb : Bool) (w : Half) (hk : k < 16) :
    (wireBits lsb w)[k]? = some (w.getLsbD (wirePos lsb k)) := by
  simp [wireBits, hk]

/-- The word after the first `n` bits in time order. -/
def wireUpTo (lsb : Bool) (bits : List Bool) (n : Nat) : Half :=
  (List.range n).foldl
    (fun acc k => if bits.getD k false then acc ||| (1#16 <<< wirePos lsb k) else acc) 0#16

theorem wireWord_eq_wireUpTo (lsb : Bool) (bits : List Bool) :
    wireWord lsb bits = wireUpTo lsb bits 16 := rfl

theorem wireUpTo_succ (lsb : Bool) (bits : List Bool) (n : Nat) :
    wireUpTo lsb bits (n + 1) =
      if bits.getD n false then wireUpTo lsb bits n ||| (1#16 <<< wirePos lsb n)
      else wireUpTo lsb bits n := by
  rw [wireUpTo, List.range_succ, List.foldl_append]
  rfl

/-- Each bit sets its own place and no other. -/
theorem getLsbD_wireUpTo_succ {i n : Nat} (lsb : Bool) (bits : List Bool) (hi : i < 16)
    (hn : n < 16) : (wireUpTo lsb bits (n + 1)).getLsbD i =
      ((wireUpTo lsb bits n).getLsbD i ||
        (decide (wirePos lsb i = n) && bits.getD n false)) := by
  have hplace : (1#16 <<< wirePos lsb n).getLsbD i = decide (wirePos lsb i = n) := by
    rw [← BitVec.twoPow_eq, BitVec.getLsbD_twoPow, decide_eq_true (wirePos_lt lsb hn),
      Bool.true_and, decide_eq_decide, wirePos_eq_comm lsb hi hn]
  rw [wireUpTo_succ]
  cases bits.getD n false with
  | true => rw [if_pos rfl, BitVec.getLsbD_or, hplace, Bool.and_true]
  | false => rw [if_neg nofun, Bool.and_false, Bool.or_false]

/-- A place holds its bit once that bit has been shifted. -/
theorem getLsbD_wireUpTo {i n : Nat} (lsb : Bool) (bits : List Bool) (hi : i < 16)
    (hn : n ≤ 16) : (wireUpTo lsb bits n).getLsbD i =
      (decide (wirePos lsb i < n) && bits.getD (wirePos lsb i) false) := by
  induction n with
  | zero => simp [wireUpTo]
  | succ n ih =>
    rw [getLsbD_wireUpTo_succ lsb bits hi hn, ih (by omega)]
    by_cases hpos : wirePos lsb i = n
    · simp [hpos]
    · have hbefore : wirePos lsb i < n + 1 ↔ wirePos lsb i < n := by omega
      simp [hpos, hbefore]

theorem getLsbD_wireWord {i : Nat} (lsb : Bool) (bits : List Bool) (hi : i < 16) :
    (wireWord lsb bits).getLsbD i = bits.getD (wirePos lsb i) false := by
  rw [wireWord_eq_wireUpTo, getLsbD_wireUpTo lsb bits hi le_rfl,
    decide_eq_true (wirePos_lt lsb hi), Bool.true_and]

/-- A word is assembled from its own bits, in the order in which they were shifted. -/
theorem wireWord_wireBits (lsb : Bool) (w : Half) : wireWord lsb (wireBits lsb w) = w := by
  refine BitVec.eq_of_getLsbD_eq fun i hi => ?_
  rw [getLsbD_wireWord lsb _ hi, List.getD_eq_getElem?_getD,
    getElem?_wireBits lsb w (wirePos_lt lsb hi), wirePos_wirePos lsb hi, Option.getD_some]

/-- Settles O28: the k-th bit shifted has the place `wirePos` in the word, on both lines. -/
theorem wireSerialisation : Obligations.WireSerialisation := by
  refine fun mode tx rx k hk => ⟨fun hmsb => ?_, fun hlsb => ?_, fun bits => ⟨?_, ?_⟩,
    wireWord_wireBits _ rx⟩
  · rw [spiFrame, hmsb]
    exact getElem?_wireBits false tx hk
  · rw [spiFrame, hlsb]
    exact getElem?_wireBits true tx hk
  · have hbit := getLsbD_wireWord false bits (wirePos_lt false hk)
    rwa [wirePos_wirePos false hk] at hbit
  · exact getLsbD_wireWord true bits hk

/-! ### A nominal link (43_transfer R204, R205) -/

theorem nominalLink_iff (mode bpw : Byte) : nominalLink mode bpw = true ↔
    bpw = 16#8 ∧ (csHigh mode = false ∧ lsbFirst mode = false ∧ threeWire mode = false ∧
      loopMode mode = false ∧ noCs mode = false ∧ readyFlag mode = false) ∧
      cpol mode = cpha mode := by
  simp [nominalLink, and_assoc]

/-- The mask keeps the six flags above CPOL and CPHA. -/
theorem and_0xFC_eq_zero_iff (mode : Byte) : mode &&& 0xFC#8 = 0#8 ↔
    csHigh mode = false ∧ lsbFirst mode = false ∧ threeWire mode = false ∧
      loopMode mode = false ∧ noCs mode = false ∧ readyFlag mode = false := by
  simp only [BitVec.eq_of_getLsbD_eq_iff, Nat.forall_lt_succ_right]
  simp [and_assoc, csHigh, lsbFirst, threeWire,
    loopMode, noCs, readyFlag]

/-- The pair (CPOL, CPHA) is (0, 0) or (1, 1) exactly when the two agree. -/
theorem clockMode_iff (mode : Byte) :
    mode.extractLsb' 0 2 = 0b00#2 ∨ mode.extractLsb' 0 2 = 0b11#2 ↔ cpol mode = cpha mode := by
  have hpair : ∀ v : BitVec 2, v = 0b00#2 ∨ v = 0b11#2 ↔ v.getLsbD 1 = v.getLsbD 0 := by decide
  simpa [cpol, cpha] using hpair (mode.extractLsb' 0 2)

/-- Settles O29: the test reads the flags of the definition as two fields of the register. -/
theorem nominalLinkTest : Obligations.NominalLinkTest := fun mode bpw => by
  rw [nominalLink_iff, and_0xFC_eq_zero_iff, clockMode_iff]

/-- On a nominal link the DAC, which reads the most significant bit first, reads the word sent. -/
theorem dacReads_of_nominalLink {mode bpw : Byte} (h : nominalLink mode bpw = true)
    (tx rx : Half) : dacReads (spiFrame mode tx rx) = tx := by
  obtain ⟨-, ⟨-, hmsb, -⟩, -⟩ := (nominalLink_iff mode bpw).mp h
  rw [dacReads, spiFrame, hmsb, wireWord_wireBits]

/-! ### XFER's checks (43_transfer R190, R193) -/

theorem exec_xfer_running {s : State} (h : MayRun s .xfer) : exec .xfer s = .next s.transfer := by
  obtain ⟨hopen, hver⟩ := h
  rw [exec_effect, effect_xfer, command_run (by simp [hopen])
    (by simp [State.isOpen, hopen, (allVerified_iff _).mpr hver])]

theorem transfer_unwritten {s : State} (h : s.txw = none) : s.transfer = s.raise .unwritten := by
  simpa [h] using transfer_cases s

theorem transfer_unmodelledBpw {s : State} {w : Half} (h : s.txw = some w)
    (hbpw : s.cfg.bpw ≠ 16#8) : s.transfer = s.raise .unmodelledBpw := by
  simpa [h, hbpw] using transfer_cases s

theorem transfer_asks {s : State} {w : Half} (h : s.txw = some w) (hbpw : s.cfg.bpw = 16#8) :
    s.transfer = s.ask (.xfer (descOf s.cfg w)) (State.afterXfer w) := by
  simpa [h, hbpw] using transfer_cases s

/-- Settles O27: TXW is looked at first, CFG_BPW next, and neither error asks the controller. -/
theorem xferChecksInOrder : Obligations.XferChecksInOrder := by
  intro s hopen hmode hbpw hspd
  rw [exec_xfer_running ⟨hopen, hmode, hbpw, hspd⟩]
  exact ⟨fun hnone => by rw [transfer_unwritten hnone],
    fun w htxw h16 => by rw [transfer_unmodelledBpw htxw h16]⟩

/-! ### XFER once the controller has answered (43_transfer R190, R194, R195) -/

/-- With 16 bits per word the length is two bytes. -/
theorem descOf_len {c : LinkConfig} (h : c.bpw = 16#8) (w : Half) :
    ((descOf c w).len : Int) = 2 := by
  rw [descOf, h]
  rfl

theorem afterXfer_ok {s : State} {a : Draw} (hbpw : s.cfg.bpw = 16#8) (hcount : 2 ≤ a.count)
    (w : Half) : s.afterXfer w a = s.transferOk w a := by
  rw [State.afterXfer, descOf_len hbpw, if_neg hcount.not_gt]

theorem afterXfer_short {s : State} {a : Draw} (hbpw : s.cfg.bpw = 16#8) (hcount : a.count < 2)
    (w : Half) : s.afterXfer w a = s.transferShort w a := by
  rw [State.afterXfer, descOf_len hbpw, if_pos hcount]

section Answered
variable {s : State} {w : Half} {a : Draw} (hrun : MayRun s .xfer) (htxw : s.txw = some w)
  (hbpw : s.cfg.bpw = 16#8) (ha : s.peek (.ctrl (.xfer (descOf s.cfg w))) = a)
  (hans : a.answered = true)
include hrun htxw hbpw ha hans

theorem exec_xfer_answered :
    exec .xfer s = .next (State.afterXfer w a { s.tick with waiting := none }) := by
  subst ha
  rw [exec_xfer_running hrun, transfer_asks htxw hbpw, ask_answered hans]

theorem exec_xfer_ok (hcount : 2 ≤ a.count) :
    exec .xfer s = .next (({ s.tick with waiting := none } : State).transferOk w a) :=
  (exec_xfer_answered hrun htxw hbpw ha hans).trans <|
    congrArg _ (afterXfer_ok (s := { s.tick with waiting := none }) hbpw hcount w)

theorem exec_xfer_short (hcount : a.count < 2) :
    exec .xfer s = .next (({ s.tick with waiting := none } : State).transferShort w a) :=
  (exec_xfer_answered hrun htxw hbpw ha hans).trans <|
    congrArg _ (afterXfer_short (s := { s.tick with waiting := none }) hbpw hcount w)

end Answered

@[simp] theorem transferOk_rxw (s : State) (w : Half) (a : Draw) :
    (s.transferOk w a).rxw = some a.miso := by
  simp [State.transferOk]

@[simp] theorem transferOk_wireLog (s : State) (w : Half) (a : Draw) :
    (s.transferOk w a).wireLog = s.wireLog ++ [s.entry w .ok (some a.miso)] := by
  simp [State.transferOk]

/-- What the DAC holds after a completed exchange: the word sent, where R205 fixes it. -/
theorem transferOk_dacWord (s : State) (w : Half) (a : Draw) :
    (s.transferOk w a).dacWord =
      if nominalLink s.cfg.mode s.cfg.bpw then w else a.dacTakes.getD s.dacWord := by
  rw [State.transferOk, dacAfter_dacWord]
  exact if_ctx_congr Iff.rfl (fun h => dacReads_of_nominalLink h w a.miso) fun _ => rfl

/-- The DAC's data apart, an exchange writes RXW and WIRE_LOG alone. -/
theorem transferOk_eq (s : State) (w : Half) (a : Draw) : ∃ v, s.transferOk w a =
    { s with
      rxw := some a.miso, wireLog := s.wireLog ++ [s.entry w .ok (some a.miso)], dacWord := v } :=
  dacAfter_eq _ w a

/-- Settles O24: two bytes were asked for, so the exchange is complete. -/
theorem xferExchangesWord : Obligations.XferExchangesWord := by
  intro s w a hopen hmode hbpw hspd htxw h16 ha hans hcount
  obtain ⟨v, hv⟩ := transferOk_eq { s.tick with waiting := none } w a
  refine ⟨v, ?_⟩
  rw [exec_xfer_ok ⟨hopen, hmode, hbpw, hspd⟩ htxw h16 ha hans hcount, hv]
  rfl

/-- Settles O25: a nominal link sends the most significant bit first, as the DAC reads. -/
theorem dacReadsTransmittedWord : Obligations.DacReadsTransmittedWord := by
  intro s t w a hopen hmode hbpw hspd htxw h16 ha hans hcount hexec
  rw [exec_xfer_ok ⟨hopen, hmode, hbpw, hspd⟩ htxw h16 ha hans hcount] at hexec
  cases hexec
  exact transferOk_dacWord _ w a

/-- Settles O26: two bytes were asked for, so the transfer is short. -/
theorem shortTransferRaises : Obligations.ShortTransferRaises := by
  intro s w a hopen hmode hbpw hspd htxw h16 ha hans hcount
  rw [exec_xfer_short ⟨hopen, hmode, hbpw, hspd⟩ htxw h16 ha hans hcount]
  rfl

/-! ### The received word under a premise (43_transfer R198, R203) -/

theorem lastOk_append_ok (l : List WireEntry) {e : WireEntry} (h : e.outcome = .ok) :
    lastOk (l ++ [e]) = some e := by
  simp [lastOk, h]

theorem echo_of_rxw {s : State} {w : Half} (h : s.rxw = some w) :
    s.echo = some (w.extractLsb' 2 10) := (echoIsFieldOfRxw s).1 w h

/-- Settles O30: the premise fixes the received word, and ECHO is its code field; the entry of this
exchange is then the last OK one. -/
theorem echoPriorShowsPreviousCode : Obligations.EchoPriorShowsPreviousCode := by
  intro s t w e hopen hmode hbpw hspd htxw h16 hnominal hans hcount hecho hlast hexec
  rw [exec_xfer_ok ⟨hopen, hmode, hbpw, hspd⟩ htxw h16 rfl hans hcount] at hexec
  cases hexec
  refine ⟨?_, _, by rw [transferOk_wireLog, lastOk_append_ok _ rfl], rfl⟩
  rw [echo_of_rxw (transferOk_rxw _ _ _), hecho hnominal e hlast]

/-- Settles O31: the premise fixes the received word, which RXW holds. -/
theorem loopbackReceivesSentWord : Obligations.LoopbackReceivesSentWord := by
  intro s t w hopen hmode hbpw hspd htxw h16 hloop hans hcount hpremise hexec
  rw [exec_xfer_ok ⟨hopen, hmode, hbpw, hspd⟩ htxw h16 rfl hans hcount] at hexec
  cases hexec
  rw [transferOk_rxw, hpremise hloop]
  rfl

end Machine
end Sys2Proof
end

section
/-!
PROOF. The host (45_host_sequences): usage_stop and the normal end, how hpc goes on after a command,
and the command-line options, each by what it sets and what it keeps.
-/

namespace Sys2Proof
namespace Machine

/-! ### usage_stop (45_host_sequences R229) -/

theorem usageStopped_idle {s : State} (h : s.status.phase = .idle) :
    s.usageStopped = s.cutOpen.raise .usage := by
  simpa [h] using usageStopped_cases s

theorem usageStopped_ignored {s : State} (h : s.status.phase ≠ .idle) : s.usageStopped = s := by
  simpa [h] using usageStopped_cases s

theorem cutOpen_of_no_request {s : State} (h : s.waiting = none) : s.cutOpen = s := by
  rw [State.cutOpen, h]

/-- Settles O41: in IDLE there is no handle to release, and cutting an OPEN off changes no
register. -/
theorem usageStopOnlyInIdle : Obligations.UsageStopOnlyInIdle := by
  intro s harr
  rw [step_usageStop harr]
  refine ⟨fun hidle => ?_, fun hphase => by rw [usageStopped_ignored (by simpa using hphase)]⟩
  rw [usageStopped_idle (by simpa using hidle)]
  refine ⟨fun hwait => by rw [cutOpen_of_no_request (by simpa using hwait)], _, rfl, ?_⟩
  have hkept : s.advance.cutOpen.releaseIfOpen = s.advance.cutOpen :=
    releaseIfOpen_other (by simp [hidle])
  simp [hkept, Status.fail, exitOf, ErrCode.faultClass, ErrCode.code]

/-! ### The normal end (45_host_sequences R232) -/

/-- Releasing the handle is an update of the controller alone. -/
theorem releaseIfOpen_eq (s : State) : s.releaseIfOpen = { s with
    ctrl := if s.status.phase = .opened then { s.ctrl with held := false } else s.ctrl } := by
  unfold State.releaseIfOpen
  split <;> rfl

theorem endRun_eq (s : State) : s.endRun = { s with
    status := { s.status with phase := .stopped }
    ctrl := if s.status.phase = .opened then { s.ctrl with held := false } else s.ctrl
    exit := some 0#8 } := by
  rw [State.endRun, releaseIfOpen_eq, Status.finish]

/-- Settles O42: no command stands at hpc, so the step is the normal end; outside STOPPED the
invariant says that ERR, FAULTCLASS and KILLED are clear. -/
theorem normalEnd : Obligations.NormalEnd := by
  intro s p harr hwait hphase hhost hpast
  refine ⟨?_, fun hinv => ?_⟩
  · rw [step_end harr hphase hwait hhost (List.getElem?_eq_none hpast), endRun_eq]
    rfl
  · obtain ⟨_, herr, hkilled, hclass⟩ := (stopInv_iff_of_running hphase).mp hinv
    exact ⟨herr, hclass, hkilled⟩

/-! ### After a command (45_host_sequences R222, R223, R231) -/

/-- Going on writes the counter alone. -/
theorem next_eq (p : HostProgram) : p.next = { p with hpc := p.next.hpc } := by
  unfold HostProgram.next
  split <;> rfl

theorem next_hpc_straight {p : HostProgram} (h : p.loopTo = none) : p.next.hpc = p.hpc + 1 := by
  rw [HostProgram.next, h]

theorem next_hpc_loop {p : HostProgram} {k : Nat} (h : p.loopTo = some k) :
    p.next.hpc = if p.hpc + 1 < p.cmds.length then p.hpc + 1 else k := by
  simp only [HostProgram.next, h, ← not_lt, ite_not]

theorem readsNow_at {p : HostProgram} {c : HostCmd} (h : p.cmds[p.hpc]? = some c) :
    p.readsNow = c.reads := by
  rw [HostProgram.readsNow, h]

theorem afterCommand_completed {s : State} {p : HostProgram} (hwait : s.waiting = none)
    (hphase : s.status.phase ≠ .stopped) (hhost : s.host = some p) :
    s.afterCommand = { s.hostRead p.readsNow with host := some p.next } := by
  rw [State.afterCommand, if_pos ⟨hwait, hphase⟩, hhost]

theorem afterCommand_held {s : State} (h : s.waiting ≠ none ∨ s.status.phase = .stopped) :
    s.afterCommand = s :=
  if_neg fun ⟨hwait, hphase⟩ => h.elim (· hwait) hphase

/-- Settles O46: the counter is that of the program's next position, and the command at hpc says
what the host reads. -/
theorem hpcAdvances : Obligations.HpcAdvances := by
  intro t p c hhost hcmd
  refine ⟨fun hwait hphase => ⟨p.next.hpc, ?_, next_hpc_straight, fun _ => next_hpc_loop⟩,
    afterCommand_held⟩
  rw [afterCommand_completed hwait hphase hhost, readsNow_at hcmd, next_eq]
  rfl

/-! ### The effect of one option (45_host_sequences R228) -/

/-- An option sets the bits of a mask in the mode and does nothing else. -/
def SetsFlag (o : CliOption) (mask : Byte) : Prop :=
  ∀ c, applyOption c o = some (setModeFlag c mask)

/-- The eight flags and their bits in CFG_MODE (R228). -/
def modeFlags : List (CliOption × Byte) :=
  [(.loop, 0x20#8), (.cpha, 0x01#8), (.cpol, 0x02#8), (.lsb, 0x08#8), (.csHigh, 0x04#8),
    (.threeWire, 0x10#8), (.noCs, 0x40#8), (.ready, 0x80#8)]

theorem setsFlag_modeFlags : ∀ f ∈ modeFlags, SetsFlag f.1 f.2 := by
  simp [modeFlags, SetsFlag, applyOption]

/-- Everything an option can do. -/
theorem applyOption_cases {c c' : LinkConfig} {o : CliOption} (h : applyOption c o = some c') :
    (∃ v, o = .device v ∧ c' = { c with path := v }) ∨
      (∃ v, o = .speed v ∧ c' = { c with speed := v }) ∨
      (∃ v, o = .delay v ∧ c' = { c with delay := v }) ∨
      (∃ v, o = .bpw v ∧ c' = { c with bpw := v }) ∨
      (∃ mask, SetsFlag o mask ∧ c' = setModeFlag c mask) := by
  cases o with
  | device v => cases h; exact .inl ⟨v, rfl, rfl⟩
  | speed v => cases h; exact .inr (.inl ⟨v, rfl, rfl⟩)
  | delay v => cases h; exact .inr (.inr (.inl ⟨v, rfl, rfl⟩))
  | bpw v => cases h; exact .inr (.inr (.inr (.inl ⟨v, rfl, rfl⟩)))
  | unknown => cases h
  | _ => cases h; exact .inr (.inr (.inr (.inr ⟨_, fun _ => rfl, rfl⟩)))

theorem applyOption_eq_none_iff (c : LinkConfig) (o : CliOption) :
    applyOption c o = none ↔ o = .unknown := by
  cases o <;> simp [applyOption]

section Keeps
variable {c c' : LinkConfig} {o : CliOption} (h : applyOption c o = some c')
include h

theorem applyOption_keeps_path (hne : ∀ w, o ≠ .device w) : c'.path = c.path := by
  rcases applyOption_cases h with ⟨w, ho, _⟩ | ⟨_, _, rfl⟩ | ⟨_, _, rfl⟩ | ⟨_, _, rfl⟩ | ⟨_, _, rfl⟩
  exacts [absurd ho (hne w), rfl, rfl, rfl, rfl]

theorem applyOption_keeps_speed (hne : ∀ w, o ≠ .speed w) : c'.speed = c.speed := by
  rcases applyOption_cases h with ⟨_, _, rfl⟩ | ⟨w, ho, _⟩ | ⟨_, _, rfl⟩ | ⟨_, _, rfl⟩ | ⟨_, _, rfl⟩
  exacts [rfl, absurd ho (hne w), rfl, rfl, rfl]

theorem applyOption_keeps_delay (hne : ∀ w, o ≠ .delay w) : c'.delay = c.delay := by
  rcases applyOption_cases h with ⟨_, _, rfl⟩ | ⟨_, _, rfl⟩ | ⟨w, ho, _⟩ | ⟨_, _, rfl⟩ | ⟨_, _, rfl⟩
  exacts [rfl, rfl, absurd ho (hne w), rfl, rfl]

theorem applyOption_keeps_bpw (hne : ∀ w, o ≠ .bpw w) : c'.bpw = c.bpw := by
  rcases applyOption_cases h with ⟨_, _, rfl⟩ | ⟨_, _, rfl⟩ | ⟨_, _, rfl⟩ | ⟨w, ho, _⟩ | ⟨_, _, rfl⟩
  exacts [rfl, rfl, rfl, absurd ho (hne w), rfl]

/-- No option clears a bit of the mode. -/
theorem applyOption_keeps_flag {mask : Byte} (hset : c.mode ||| mask = c.mode) :
    c'.mode ||| mask = c'.mode := by
  rcases applyOption_cases h with ⟨_, _, rfl⟩ | ⟨_, _, rfl⟩ | ⟨_, _, rfl⟩ | ⟨_, _, rfl⟩ |
    ⟨more, _, rfl⟩
  iterate 4 exact hset
  rw [setModeFlag, BitVec.or_assoc, BitVec.or_comm more, ← BitVec.or_assoc, hset]

end Keeps

/-! ### The options in order (45_host_sequences R228, R229) -/

theorem applyOptions_cons (c : LinkConfig) (o : CliOption) (os : List CliOption) :
    applyOptions c (o :: os) = (applyOption c o).bind (applyOptions · os) := by
  rw [applyOptions]
  cases applyOption c o <;> rfl

theorem applyOptions_append (c : LinkConfig) (xs ys : List CliOption) :
    applyOptions c (xs ++ ys) = (applyOptions c xs).bind (applyOptions · ys) := by
  induction xs generalizing c with
  | nil => rfl
  | cons o xs ih => simp only [List.cons_append, applyOptions_cons, ih, Option.bind_assoc]

theorem applyOptions_flag {o : CliOption} {mask : Byte} (h : SetsFlag o mask) (c : LinkConfig)
    (os : List CliOption) : applyOptions c (o :: os) = applyOptions (setModeFlag c mask) os := by
  rw [applyOptions_cons, h, Option.bind_some]

theorem applyOptions_eq_none_iff (c : LinkConfig) (os : List CliOption) :
    applyOptions c os = none ↔ .unknown ∈ os := by
  induction os generalizing c with
  | nil => simp [applyOptions]
  | cons o os ih =>
    rw [applyOptions_cons, List.mem_cons]
    cases ho : applyOption c o with
    | none => simp [(applyOption_eq_none_iff c o).mp ho]
    | some c' =>
      have hne : CliOption.unknown ≠ o := fun h => by simp [← h, applyOption] at ho
      simp [hne, ih]

/-- What each option keeps, the options in order keep. -/
theorem applyOptions_keeps (P : LinkConfig → Prop) {c c' : LinkConfig} {os : List CliOption}
    (hkeep : ∀ o ∈ os, ∀ c c', applyOption c o = some c' → P c → P c')
    (h : applyOptions c os = some c') (hc : P c) : P c' := by
  induction os generalizing c with
  | nil => cases h; exact hc
  | cons o os ih =>
    obtain ⟨hhead, htail⟩ := List.forall_mem_cons.mp hkeep
    rw [applyOptions_cons, Option.bind_eq_some_iff] at h
    obtain ⟨c₁, ho, hos⟩ := h
    exact ih htail hos (hhead _ _ ho hc)

/-- What an option sets, and those after it keep, holds at the end. -/
theorem applyOptions_sets (P : LinkConfig → Prop) {c c' : LinkConfig} {o : CliOption}
    {xs ys : List CliOption} (hset : ∀ c c', applyOption c o = some c' → P c')
    (hkeep : ∀ o ∈ ys, ∀ c c', applyOption c o = some c' → P c → P c')
    (h : applyOptions c (xs ++ o :: ys) = some c') : P c' := by
  rw [applyOptions_append, Option.bind_eq_some_iff] at h
  obtain ⟨c₁, -, h⟩ := h
  rw [applyOptions_cons, Option.bind_eq_some_iff] at h
  obtain ⟨c₂, ho, hys⟩ := h
  exact applyOptions_keeps P hkeep hys (hset _ _ ho)

/-- The last value wins, for any valued option `mk` and the field `get` it alone writes. -/
theorem applyOptions_last {α : Type} {mk : α → CliOption} {get : LinkConfig → α}
    (hset : ∀ c c' v, applyOption c (mk v) = some c' → get c' = v)
    (hkeep : ∀ {c c' o}, applyOption c o = some c' → (∀ w, o ≠ mk w) → get c' = get c)
    {c c' : LinkConfig} {xs ys : List CliOption} {v : α}
    (h : applyOptions c (xs ++ mk v :: ys) = some c') (hlast : ∀ w, mk w ∉ ys) : get c' = v :=
  applyOptions_sets (fun c => get c = v) (fun c c' => hset c c' v)
    (fun _ ho _ _ happly hc => (hkeep happly fun w hw => hlast w (hw ▸ ho)).trans hc) h

/-- A flag that has stood once sets nothing new. -/
theorem applyOptions_flag_again {o : CliOption} {mask : Byte} {os : List CliOption}
    (hflag : SetsFlag o mask) (hmem : o ∈ os) (c : LinkConfig) :
    applyOptions c (os ++ [o]) = applyOptions c os := by
  rw [applyOptions_append]
  cases h : applyOptions c os with
  | none => rfl
  | some c' =>
    obtain ⟨xs, ys, rfl⟩ := List.append_of_mem hmem
    have hset : c'.mode ||| mask = c'.mode := by
      refine applyOptions_sets (fun c => c.mode ||| mask = c.mode) (fun c₁ c₂ ho => ?_)
        (fun _ _ _ _ ho => applyOption_keeps_flag ho) h
      cases (hflag c₁).symm.trans ho
      rw [setModeFlag, BitVec.or_assoc, BitVec.or_self]
    rw [Option.bind_some, applyOptions_flag hflag, setModeFlag, hset, applyOptions]

/-! ### The host's start (45_host_sequences R228, R229, 00_scope R7) -/

theorem startHost_presents {os : List CliOption} {c : LinkConfig}
    (h : applyOptions defaultCfg os = some c) (s : State) (ch buf g2x : Bool) (variant : Variant)
    (v : VinSource) : s.startHost os ch buf g2x variant v =
      { s with host := some (HostProgram.ofVariant variant c v ch buf g2x) } := by
  rw [State.startHost, h]

theorem startHost_usage {os : List CliOption} (h : applyOptions defaultCfg os = none) (s : State)
    (ch buf g2x : Bool) (variant : Variant) (v : VinSource) :
    s.startHost os ch buf g2x variant v = { s with inbox := some .usageStop :: s.inbox } := by
  rw [State.startHost, h]

/-- Either program starts with LDCFG of the record. -/
theorem ofVariant_starts (variant : Variant) (c : LinkConfig) (v : VinSource) (ch buf g2x : Bool) :
    (HostProgram.ofVariant variant c v ch buf g2x).hpc = 0 ∧
      ∃ cmds, (HostProgram.ofVariant variant c v ch buf g2x).cmds = ldcfgCmd c :: cmds := by
  cases variant with
  | session => exact ⟨rfl, _, rfl⟩
  | oneshot => exact ⟨rfl, _, rfl⟩

theorem ldcfgCmd_eq (c : LinkConfig) :
    ldcfgCmd c = { word := 0x10000000#32, cfgIn := some c, vin := .hold } := by
  rw [ldcfgCmd, hostCmd, show commandWord .ldcfg = 0x10000000#32 by decide]

/-- Settles O59: an option sets one field or one flag, and the others keep it. -/
theorem optionMapping : Obligations.OptionMapping := by
  refine ⟨fun c os => ⟨rfl, fun _ => rfl, fun _ => rfl, fun _ => rfl, fun _ => rfl,
      fun _ _ hflag => applyOptions_flag (setsFlag_modeFlags _ hflag) c os⟩,
    fun c os o hflag hmem => ?again,
    fun c c' xs ys => ⟨fun v => ?path, fun v => ?speed, fun v => ?delay, fun v => ?bpw⟩,
    applyOptions_eq_none_iff,
    fun s os ch buf g2x variant v => ⟨fun c hc => ?start, fun hnone => ?usage⟩⟩
  case again =>
    have hflag : o ∈ modeFlags.map Prod.fst := hflag
    obtain ⟨f, hf, rfl⟩ := List.mem_map.mp hflag
    exact applyOptions_flag_again (setsFlag_modeFlags f hf) hmem c
  case path =>
    exact applyOptions_last (fun _ _ _ h => by cases h; rfl) applyOption_keeps_path
  case speed =>
    exact applyOptions_last (fun _ _ _ h => by cases h; rfl) applyOption_keeps_speed
  case delay =>
    exact applyOptions_last (fun _ _ _ h => by cases h; rfl) applyOption_keeps_delay
  case bpw =>
    exact applyOptions_last (fun _ _ _ h => by cases h; rfl) applyOption_keeps_bpw
  case start =>
    obtain ⟨hhpc, cmds, hcmds⟩ := ofVariant_starts variant c v ch buf g2x
    exact ⟨_, cmds, by rw [startHost_presents hc], hhpc, by rw [hcmds, ldcfgCmd_eq]⟩
  case usage =>
    rw [startHost_usage hnone]
    rfl

end Machine
end Sys2Proof
end

section
/-!
PROOF. Errors, the kill and waiting (60_exceptions): in STOPPED nothing runs, what the error entry
and a kill leave, and which command a waiting request belongs to.
-/

namespace Sys2Proof
namespace Machine

/-! ### STOPPED is final (60_exceptions R255) -/

theorem effect_stopped {s : State} {i : Instr} (h : s.status.phase = .stopped)
    (hport : i.wfOn .cmd = true) : effect i s = s := by
  cases i with
  | dacwr => cases hport
  | _ => simp [State.writeParam, State.readParam, State.illegal, command_stopped h]

/-- Settles O38: each command begins with the phase check. -/
theorem stoppedTakesNoCommand : Obligations.StoppedTakesNoCommand := by
  intro s i h hport
  rw [exec_effect, effect_stopped h hport]

/-- What arrives at a STOPPED block is lost, unless it is a reset. -/
theorem step_stopped_of_no_reset {s : State} (h : s.status.phase = .stopped)
    (harr : s.arrival ≠ some .reset) : step s = .next s.advance := by
  match ha : s.arrival with
  | none => exact step_stopped ha h
  | some .kill => rw [step_kill ha, killed_stopped (by simpa using h)]
  | some .usageStop => rw [step_usageStop ha, usageStopped_ignored (by simp [h])]
  | some .reset => exact absurd ha harr
  | some (.dacWord w) =>
    refine step_dacWord_ignored ha ?_
    unfold State.transferWaits
    split <;> simp [h]

theorem SameRegisters.refl (s : State) : SameRegisters s s :=
  ⟨rfl, rfl, rfl, rfl, rfl, rfl, rfl, rfl, rfl, rfl⟩

theorem done_stopped {s : State} (h : s.status.phase = .stopped) : s.done = false := by
  simp [State.done, h]

/-- Settles O39, by induction on the number of steps: each takes in what arrives and no more. -/
theorem stoppedIsFinal : Obligations.StoppedIsFinal := by
  intro n
  induction n with
  | zero =>
    rintro s t h - ⟨⟩
    exact ⟨SameRegisters.refl s, done_stopped h⟩
  | succ n ih =>
    intro s t h harr hrun
    have hstep : core.step s = .next s.advance :=
      step_stopped_of_no_reset h (harr 0 n.succ_pos)
    simp only [Host.Core.run, hstep] at hrun
    exact ih s.advance t h
      (fun k hk => advance_arrivalAt s k ▸ harr (k + 1) (Nat.succ_lt_succ hk)) hrun

/-! ### The error entry (60_exceptions R250) -/

theorem faultClass_eq (e : ErrCode) : e.faultClass = decide (13 ≤ e.code.toNat) := rfl

/-- Settles O34: the handle's release is an update of the controller alone, and the entry leaves the
block in STOPPED. -/
theorem errorEntryTaken : Obligations.ErrorEntryTaken := by
  refine fun s e => ⟨?_, fun i => stoppedTakesNoCommand _ i rfl⟩
  rw [State.raise, releaseIfOpen_eq, Status.fail, faultClass_eq, exitOf]

/-! ### The kill (60_exceptions R256) -/

theorem killWaiting_transfer {s : State} {d : Desc} (h : s.waiting = some (.xfer d)) :
    s.killWaiting = { s.tick with
      rxw := none, wireLog := s.wireLog ++ [s.entry d.tx .killed none]
      dacWord := (s.peek (.cutOff (.xfer d))).dacTakes.getD s.dacWord } := by
  simpa [h] using killWaiting_cases s

theorem killWaiting_request {s : State} {r : CtrlReq} (h : s.waiting = some r)
    (hr : ∀ d, r ≠ .xfer d) : s.killWaiting = s.cutCtrl r := by
  cases r with
  | xfer d => exact absurd rfl (hr d)
  | _ => simpa [h] using killWaiting_cases s

/-- Where no transfer waits, a kill leaves RXW, WIRE_LOG and the DAC. -/
theorem killWaiting_no_transfer {s : State} (h : ∀ d, s.waiting ≠ some (.xfer d)) :
    s.killWaiting.rxw = s.rxw ∧ s.killWaiting.wireLog = s.wireLog ∧
      s.killWaiting.dacWord = s.dacWord := by
  rcases killWaiting_cases s with ⟨_, hk⟩ | ⟨d, hd, _⟩ | ⟨r, _, _, hk⟩
  · simp [hk]
  · exact absurd hd (h d)
  · simp [hk]

/-- A kill that is taken gives back the handle of an open device, and no setting with it. -/
theorem killed_eq_held {s : State} (h : s.status.phase ≠ .stopped) :
    s.killed = { s.killWaiting with
      status := { s.status with killed := true, phase := .stopped }
      ctrl := { s.killWaiting.ctrl with
        held := if s.status.phase = .opened then false else s.ctrl.held }
      exit := some Config.killStatus, waiting := none } := by
  rw [killed_eq h, ← killWaiting_held s]
  split <;> rfl

/-- Settles O40: the kill of what waits writes the log or the controller's settings, and the rest of
the kill is the release of the handle and the end of the run. -/
theorem killStopsBlock : Obligations.KillStopsBlock := by
  intro s harr hphase
  refine ⟨s.advance.killed, step_kill harr, ?_⟩
  rw [killed_eq_held (s := s.advance) hphase]
  refine ⟨rfl, rfl, rfl, rfl, killWaiting_cfg _, killWaiting_dreg _, killWaiting_txw _,
    killWaiting_rbMode _, killWaiting_rbBpw _, killWaiting_rbSpeed _, fun d hd => ?transfer,
    killWaiting_no_transfer (s := s.advance), fun r hr hother => ?request⟩
  case transfer =>
    rw [killWaiting_transfer (s := s.advance) hd]
    exact ⟨rfl, rfl, rfl⟩
  case request =>
    rw [killWaiting_request (s := s.advance) hr hother]
    exact ⟨rfl, rfl, rfl⟩

/-! ### A controller that does not answer (60_exceptions R257) -/

theorem exec_openDev_silent {s : State} (hphase : s.status.phase = .idle ∨ s.status.phase = .closed)
    (hsilent : (s.peek (.ctrl (.openDev s.cfg.path))).answered = false) :
    exec .openDev s = .next { s.tick with waiting := some (.openDev s.cfg.path) } := by
  have hrunning : s.status.phase ≠ .stopped := by rcases hphase with h | h <;> simp [h]
  rw [exec_effect, effect_openDev, command_run hrunning (decide_eq_true hphase), ask_silent hsilent]

theorem effect_write (s : State) (p : Param) (v : Word) :
    effect (reqInstr (.write p v)) s = s.writeParam p := by
  cases p <;> rfl

theorem effect_read (s : State) (p : Param) : effect (reqInstr (.read p)) s = s.readParam p := by
  cases p <;> rfl

theorem exec_write_silent {s : State} {p : Param} (hopen : s.status.phase = .opened)
    (hsilent : (s.peek (.ctrl (.write p (cfgParam s.cfg p)))).answered = false) :
    exec (reqInstr (.write p (cfgParam s.cfg p))) s =
      .next { s.tick with waiting := some (.write p (cfgParam s.cfg p)) } := by
  rw [exec_effect, effect_write, State.writeParam,
    command_run (by simp [hopen]) ((isOpen_iff s).mpr hopen), ask_silent hsilent]

theorem exec_read_silent {s : State} {p : Param} (hopen : s.status.phase = .opened)
    (hst : s.status.st p ≠ .none) (hsilent : (s.peek (.ctrl (.read p))).answered = false) :
    exec (reqInstr (.read p)) s = .next { s.tick with waiting := some (.read p) } := by
  rw [exec_effect, effect_read, State.readParam, command_run (by simp [hopen])
    (by simp [State.isOpen, hopen, wasWritten_of_ne_none hst]), ask_silent hsilent]

/-- Settles O22: each of the eight commands passes its phase check and its own checks, and is left
with the unanswered question. -/
theorem silentControllerKeepsWaiting : Obligations.SilentControllerKeepsWaiting := by
  refine fun s => ⟨exec_openDev_silent, fun hopen => ⟨?write, ?read, ?transfer⟩⟩
  case write =>
    rintro p i rfl hsilent
    have hexec := exec_write_silent hopen hsilent
    cases p <;> exact hexec
  case read =>
    rintro p i rfl hst hsilent
    have hexec := exec_read_silent hopen hst hsilent
    cases p <;> exact hexec
  case transfer =>
    intro w htxw h16 hmode hbpw hspd hsilent
    rw [exec_xfer_running ⟨hopen, hmode, hbpw, hspd⟩, transfer_asks htxw h16, ask_silent hsilent]

/-! ### Whose request waits (20_memory R66, 60_exceptions R257) -/

/-- If a request waits, it is one that the given command makes. -/
def WaitsFor (i : Instr) (s : State) : Prop := ∀ r, s.waiting = some r → reqInstr r = i

theorem waitsFor_of_no_request {s : State} (h : s.waiting = none) (i : Instr) : WaitsFor i s :=
  fun _ hr => nomatch h.symm.trans hr

theorem waitsFor_command {s : State} {i : Instr} {pre : Bool} {body : State → State}
    (hnone : s.waiting = none) (hbody : WaitsFor i (body s)) : WaitsFor i (s.command pre body) := by
  rcases command_cases s pre body with ⟨_, h⟩ | ⟨_, _, h⟩ | ⟨_, _, h⟩ <;> rw [h]
  · exact waitsFor_of_no_request hnone i
  · exact hbody
  · exact waitsFor_of_no_request (raise_waiting _ _) i

/-- Asking leaves the request that was made, or what goes on with the answer. -/
theorem waitsFor_ask {s : State} {r : CtrlReq} {k : Draw → State → State}
    (hk : ∀ a, (k a { s.tick with waiting := none }).waiting = none) :
    WaitsFor (reqInstr r) (s.ask r k) := by
  rcases ask_cases s r k with ⟨a, _, _, h⟩ | ⟨_, h⟩ <;> rw [h]
  · exact waitsFor_of_no_request (hk a) _
  · rintro _ ⟨⟩
    rfl

theorem afterOpen_waiting {s : State} (h : s.waiting = none) (a : Draw) :
    (s.afterOpen a).waiting = none := by
  rcases afterOpen_cases a s with ⟨_, ha⟩ | ⟨_, ha⟩ <;> simp [ha, h]

theorem afterWrite_waiting {s : State} (h : s.waiting = none) (p : Param) (a : Draw) :
    (s.afterWrite p a).waiting = none := by
  rcases afterWrite_cases p a s with ⟨_, ha⟩ | ⟨_, ha⟩ <;> simp [ha, h]

theorem afterRead_waiting {s : State} (h : s.waiting = none) (p : Param) (a : Draw) :
    (s.afterRead p a).waiting = none := by
  rcases afterRead_cases p a s with ⟨_, _, ha⟩ | ⟨_, _, ha⟩ | ⟨_, ha⟩ <;> simp [ha, h]

theorem afterXfer_waiting {s : State} (h : s.waiting = none) (w : Half) (a : Draw) :
    (s.afterXfer w a).waiting = none := by
  rcases afterXfer_cases w a s with ⟨_, ha⟩ | ⟨_, ha⟩ <;>
    simp [ha, h, State.transferShort, State.transferOk]

theorem waitsFor_transfer {s : State} : WaitsFor .xfer s.transfer := by
  rcases transfer_cases s with ⟨_, h⟩ | ⟨w, _, _, h⟩ | ⟨w, _, _, h⟩ <;> rw [h]
  · exact waitsFor_of_no_request (raise_waiting _ _) _
  · exact waitsFor_of_no_request (raise_waiting _ _) _
  · exact waitsFor_ask (r := .xfer _) (afterXfer_waiting rfl w)

theorem waitsFor_effect {s : State} (hnone : s.waiting = none) (i : Instr) :
    WaitsFor i (effect i s) := by
  have hwrite (p : Param) : WaitsFor (reqInstr (.write p (cfgParam s.cfg p))) (s.writeParam p) :=
    waitsFor_command hnone (waitsFor_ask (afterWrite_waiting rfl p))
  have hread (p : Param) : WaitsFor (reqInstr (.read p)) (s.readParam p) :=
    waitsFor_command hnone (waitsFor_ask (afterRead_waiting rfl p))
  have hplain {pre : Bool} {body : State → State} (hbody : (body s).waiting = none) :
      WaitsFor i (s.command pre body) :=
    waitsFor_command hnone (waitsFor_of_no_request hbody i)
  cases i with
  | openDev => exact waitsFor_command hnone (waitsFor_ask (r := .openDev _) (afterOpen_waiting rfl))
  | wrmode => exact hwrite .mode
  | wrbpw => exact hwrite .bpw
  | wrspd => exact hwrite .speed
  | rdmode => exact hread .mode
  | rdbpw => exact hread .bpw
  | rdspd => exact hread .speed
  | xfer => exact waitsFor_command hnone waitsFor_transfer
  | ldcfg => exact hplain hnone
  | ldd imm => exact hplain hnone
  | close => exact hplain hnone
  | conv =>
    refine hplain ?_
    rcases convert_cases s with ⟨_, h⟩ | ⟨c, _, h⟩ <;> simp [h, hnone]
  | enc ch buf g2x =>
    refine hplain ?_
    rcases encode_cases s ch buf g2x with ⟨_, h⟩ | ⟨d, _, h⟩ <;> simp [h, hnone]
  | reservedOp0 low => exact hplain (raise_waiting _ _)
  | reservedOpE low => exact hplain (raise_waiting _ _)
  | reservedOpF low => exact hplain (raise_waiting _ _)
  | dacwr ch buf gaN data => exact waitsFor_of_no_request hnone _

/-- Settles O47: the step is the retry of what waits, and only the command that asks leaves its
request waiting. -/
theorem waitingCommandResumes : Obligations.WaitingCommandResumes := by
  refine ⟨fun s r harr hphase hwait => ?_, fun _ _ _ => ⟨rfl, rfl, rfl, rfl, rfl, rfl, rfl, rfl⟩,
    fun s t i r hnone hexec hr => ?_, fun _ _ => rfl⟩
  · rw [step_waiting harr hphase hwait, exec_effect, finishCommand]
  · rw [exec_effect] at hexec
    cases hexec
    exact waitsFor_effect hnone i r hr

end Machine
end Sys2Proof
end

section
/-!
PROOF. Reset and the precondition table (70_reset_and_hazards): what each command checks and raises,
and what a reset leaves.
-/

namespace Sys2Proof
namespace Machine

/-! ### The bodies of the commands raise no SEQUENCE (60_exceptions R241, R243) -/

theorem wrError_ne_sequence (p : Param) : wrError p ≠ .sequence := by
  cases p <;> exact ErrCode.noConfusion

theorem rdError_ne_sequence (p : Param) : rdError p ≠ .sequence := by
  cases p <;> exact ErrCode.noConfusion

theorem mismatchError_ne_sequence (p : Param) : mismatchError p ≠ .sequence := by
  cases p <;> exact ErrCode.noConfusion

theorem afterOpen_ne_sequence (a : Draw) (s : State) (hs : s.status.err ≠ .sequence) :
    (s.afterOpen a).status.err ≠ .sequence := by
  rcases afterOpen_cases a s with ⟨_, h⟩ | ⟨_, h⟩ <;> simp [h, hs]

theorem afterWrite_ne_sequence (p : Param) (a : Draw) (s : State)
    (hs : s.status.err ≠ .sequence) : (s.afterWrite p a).status.err ≠ .sequence := by
  rcases afterWrite_cases p a s with ⟨_, h⟩ | ⟨_, h⟩ <;> simp [h, hs, wrError_ne_sequence]

theorem afterRead_ne_sequence (p : Param) (a : Draw) (s : State)
    (hs : s.status.err ≠ .sequence) : (s.afterRead p a).status.err ≠ .sequence := by
  rcases afterRead_cases p a s with ⟨_, _, h⟩ | ⟨_, _, h⟩ | ⟨_, h⟩ <;>
    simp [h, hs, mismatchError_ne_sequence, rdError_ne_sequence]

theorem afterXfer_ne_sequence (w : Half) (a : Draw) (s : State)
    (hs : s.status.err ≠ .sequence) : (s.afterXfer w a).status.err ≠ .sequence := by
  rcases afterXfer_cases w a s with ⟨_, h⟩ | ⟨_, h⟩ <;>
    simp [h, hs, State.transferShort, State.transferOk]

/-- Asking raises SEQUENCE only if what goes on with the answer does. -/
theorem ask_ne_sequence {s : State} {r : CtrlReq} {k : Draw → State → State}
    (hk : ∀ a t, t.status.err ≠ .sequence → (k a t).status.err ≠ .sequence)
    (hs : s.status.err ≠ .sequence) : (s.ask r k).status.err ≠ .sequence := by
  rcases ask_cases s r k with ⟨a, _, _, h⟩ | ⟨_, h⟩ <;> rw [h]
  · exact hk a _ hs
  · exact hs

theorem convert_ne_sequence {s : State} (hs : s.status.err ≠ .sequence) :
    s.convert.status.err ≠ .sequence := by
  rcases convert_cases s with ⟨_, h⟩ | ⟨c, _, h⟩ <;> simp [h, hs]

theorem encode_ne_sequence {s : State} {ch buf g2x : Bool} (hs : s.status.err ≠ .sequence) :
    (s.encode ch buf g2x).status.err ≠ .sequence := by
  rcases encode_cases s ch buf g2x with ⟨_, h⟩ | ⟨d, _, h⟩ <;> simp [h, hs]

theorem transfer_ne_sequence {s : State} (hs : s.status.err ≠ .sequence) :
    s.transfer.status.err ≠ .sequence := by
  rcases transfer_cases s with ⟨_, h⟩ | ⟨w, _, _, h⟩ | ⟨w, _, _, h⟩ <;> rw [h]
  · exact ErrCode.noConfusion
  · exact ErrCode.noConfusion
  · exact ask_ne_sequence (afterXfer_ne_sequence w) hs

/-! ### The precondition table (70_reset_and_hazards R280) -/

theorem readParam_check_iff (s : State) (p : Param) :
    (s.isOpen && (s.status.st p).wasWritten) = true ↔
      s.status.phase = .opened ∧ (s.status.st p = .written ∨ s.status.st p = .verified) := by
  rw [Bool.and_eq_true, isOpen_iff, wasWritten_iff]

theorem xfer_check_iff (s : State) :
    (s.isOpen && s.status.allVerified) = true ↔ MayRun s .xfer := by
  rw [Bool.and_eq_true, isOpen_iff, allVerified_iff, MayRun]

/-- An instruction checks its row of the table and then runs a body that raises no SEQUENCE. -/
def ChecksItsRow (s : State) (i : Instr) : Prop :=
  ∃ pre body, effect i s = s.command pre body ∧ (pre = true ↔ MayRun s i) ∧
    (s.status.err ≠ .sequence → (body s).status.err ≠ .sequence)

theorem checksItsRow_of_isCommand {s : State} {i : Instr} (hi : i.isCommand = true)
    (hphase : s.status.phase ≠ .stopped) : ChecksItsRow s i := by
  cases i with
  | ldcfg => exact ⟨_, _, effect_ldcfg s, decide_eq_true_iff, id⟩
  | openDev =>
    exact ⟨_, _, effect_openDev s, decide_eq_true_iff,
      ask_ne_sequence afterOpen_ne_sequence⟩
  | wrmode =>
    exact ⟨_, _, effect_wrmode s, isOpen_iff s, ask_ne_sequence (afterWrite_ne_sequence .mode)⟩
  | wrbpw =>
    exact ⟨_, _, effect_wrbpw s, isOpen_iff s, ask_ne_sequence (afterWrite_ne_sequence .bpw)⟩
  | wrspd =>
    exact ⟨_, _, effect_wrspd s, isOpen_iff s, ask_ne_sequence (afterWrite_ne_sequence .speed)⟩
  | rdmode =>
    exact ⟨_, _, effect_rdmode s, readParam_check_iff s .mode,
      ask_ne_sequence (afterRead_ne_sequence .mode)⟩
  | rdbpw =>
    exact ⟨_, _, effect_rdbpw s, readParam_check_iff s .bpw,
      ask_ne_sequence (afterRead_ne_sequence .bpw)⟩
  | rdspd =>
    exact ⟨_, _, effect_rdspd s, readParam_check_iff s .speed,
      ask_ne_sequence (afterRead_ne_sequence .speed)⟩
  | conv => exact ⟨_, _, effect_conv s, iff_of_true rfl hphase, convert_ne_sequence⟩
  | ldd imm => exact ⟨_, _, effect_ldd imm s, iff_of_true rfl hphase, id⟩
  | enc ch buf g2x =>
    exact ⟨_, _, effect_enc ch buf g2x s, iff_of_true rfl hphase, encode_ne_sequence⟩
  | xfer => exact ⟨_, _, effect_xfer s, xfer_check_iff s, transfer_ne_sequence⟩
  | close => exact ⟨_, _, effect_close s, isOpen_iff s, id⟩
  | reservedOp0 low => cases hi
  | reservedOpE low => cases hi
  | reservedOpF low => cases hi
  | dacwr ch buf gaN data => cases hi

theorem isCommand_wfOn_cmd {i : Instr} (hi : i.isCommand = true) : i.wfOn .cmd = true := by
  cases i with
  | dacwr => cases hi
  | _ => rfl

/-- Settles O35: outside STOPPED each command checks its row, which decides between SEQUENCE and a
body that does not raise it; in STOPPED the state stays. -/
theorem preconditionTable : Obligations.PreconditionTable := by
  intro s i hi
  have hstop (h : s.status.phase = .stopped) : effect i s = s :=
    effect_stopped h (isCommand_wfOn_cmd hi)
  refine ⟨fun hphase hno => ?sequence, fun hs hmay => ⟨_, exec_effect i s, ?runs⟩,
    fun h => by rw [exec_effect, hstop h]⟩
  case sequence =>
    obtain ⟨pre, body, heffect, hpre, -⟩ := checksItsRow_of_isCommand hi hphase
    rw [exec_effect, heffect, command_sequence hphase (Bool.eq_false_iff.mpr (mt hpre.mp hno))]
  case runs =>
    by_cases hphase : s.status.phase = .stopped
    · rwa [hstop hphase]
    · obtain ⟨pre, body, heffect, hpre, hbody⟩ := checksItsRow_of_isCommand hi hphase
      rw [heffect, command_run hphase (hpre.mpr hmay)]
      exact hbody hs

/-! ### Reset (70_reset_and_hazards R270, R271) -/

theorem killWaiting_of_no_request {s : State} (h : s.waiting = none) : s.killWaiting = s := by
  simpa [h] using killWaiting_cases s

theorem resetBlock_sameRegisters (s : State) : SameRegisters State.reset s.resetBlock :=
  ⟨rfl, rfl, rfl, rfl, rfl, rfl, rfl, rfl, rfl, rfl⟩

/-- Where nothing waits, a reset leaves the DAC, and of the controller all but the handle. -/
theorem resetBlock_of_no_request {s : State} (h : s.waiting = none) :
    s.resetBlock.dacWord = s.dacWord ∧ s.resetBlock.ctrl = { s.ctrl with held := false } := by
  simp [State.resetBlock, killWaiting_of_no_request h]

/-- Settles O44: a reset writes every register, whatever the cut-off of a waiting command did before
it; with nothing waiting there is no cut-off. -/
theorem resetRestoresRegisters : Obligations.ResetRestoresRegisters := fun s harr =>
  ⟨s.advance.resetBlock, step_reset harr, resetBlock_sameRegisters _, rfl, rfl,
    resetBlock_of_no_request (s := s.advance)⟩

end Machine
end Sys2Proof
end

section
/-!
PROOF. The block sends Command Words only (10_state R34, 30_encoding R83, R98): ENC is the one writer
of TXW, and an XFER takes its word from there, into the log or into its request.
-/

namespace Sys2Proof
namespace Machine

/-! ### The words of TXW, of the log and of the request (10_state R34) -/

theorem isCw16_encWord (ch buf g2x : Bool) (d : Half) : IsCw16 (encWord ch buf g2x d) := by
  rw [encWord_eq_cw16Of]
  exact ⟨act_cw16Of .., low_cw16Of ..⟩

/-- An update that leaves TXW and the log, and lets go of the request, keeps the invariant. -/
theorem WordInv.congr_of_no_request {s t : State} (h : WordInv s) (htxw : t.txw = s.txw)
    (hlog : t.wireLog = s.wireLog) (hnone : t.waiting = none) : WordInv t := by
  obtain ⟨hw, hl, _⟩ := h
  exact ⟨fun w hw' => hw w (htxw ▸ hw'), hlog ▸ hl, by simp [hnone]⟩

theorem forall_isCw16_append_entry {s : State} {w : Half} (hlog : ∀ e ∈ s.wireLog, IsCw16 e.word)
    (hword : IsCw16 w) (o : WireOutcome) (miso : Option Half) :
    ∀ e ∈ s.wireLog ++ [s.entry w o miso], IsCw16 e.word :=
  List.forall_mem_append.mpr ⟨hlog, List.forall_mem_singleton.mpr hword⟩

theorem WordInv.raise {s : State} (h : WordInv s) (e : ErrCode) : WordInv (s.raise e) :=
  h.congr_of_no_request (raise_txw s e) (raise_wireLog s e) (raise_waiting s e)

theorem WordInv.endRun {s : State} (h : WordInv s) : WordInv s.endRun := by
  simpa [WordInv] using h

/-- A transfer that is cut off is logged with the word of its request. -/
theorem WordInv.killWaiting {s : State} (h : WordInv s) : WordInv s.killWaiting := by
  rcases killWaiting_cases s with ⟨_, hk⟩ | ⟨d, hd, hk⟩ | ⟨r, _, _, hk⟩ <;> rw [hk]
  · exact h
  · obtain ⟨htxw, hlog, hreq⟩ := h
    exact ⟨htxw, forall_isCw16_append_entry hlog (hreq d hd) _ _, hreq⟩
  · exact h

theorem WordInv.killed {s : State} (h : WordInv s) : WordInv s.killed := by
  rcases killed_cases s with ⟨_, hk⟩ | ⟨_, hk⟩ <;> rw [hk]
  · exact h
  · exact h.killWaiting.congr_of_no_request (releaseIfOpen_txw _) (releaseIfOpen_wireLog _) rfl

theorem wordInv_resetBlock (s : State) : WordInv s.resetBlock := ⟨nofun, nofun, nofun⟩

theorem WordInv.effect {s : State} (h : WordInv s) (i : Instr) : WordInv (effect i s) := by
  have ⟨htxw, hlog, hreq⟩ := h
  refine effect_preserves WordInv i s h
    (hraise := fun _ e hu _ _ => hu.raise e) (hcfg := fun _ => h) (hdreg := fun _ _ hu => hu)
    (htxw := fun ch buf g2x d => ⟨?encoded, hlog, hreq⟩) (hdac := fun _ _ hu => hu)
    (hwait := fun r _ hr => ⟨htxw, hlog, ?requested⟩)
    (hnow := h.congr_of_no_request rfl rfl rfl) (hsettle := fun _ _ hu => hu)
    (hopen := fun _ _ => h.congr_of_no_request rfl rfl rfl)
    (hwrite := fun _ _ _ => h.congr_of_no_request rfl rfl rfl)
    (hread := fun _ _ _ _ => ⟨WordInv.raise ?read _, fun _ => ?verified⟩)
    (hxfer := fun w o miso _ hw _ _ =>
      ⟨htxw, forall_isCw16_append_entry hlog (htxw w hw) o miso, nofun⟩)
    (hclose := fun _ => h)
  case encoded => rintro _ ⟨⟩; exact isCw16_encWord ch buf g2x d
  case requested =>
    rintro d ⟨⟩
    obtain ⟨_, _, _, hword, _⟩ := hr
    exact htxw d.tx hword
  case read => exact h.congr_of_no_request (by simp) (by simp) (by simp)
  case verified => exact h.congr_of_no_request (by simp) (by simp) (by simp)

/-- Settles O49: TXW is written by ENC alone, a request is made with the word of TXW, and the log
takes its words from these two. -/
theorem commandWordInvariantKept : Obligations.CommandWordInvariantKept := fun _ _ h hstep =>
  step_preserves WordInv hstep h
    (hadvance := fun _ hu => hu) (hhost := fun _ _ _ hu => hu) (hlatch := fun _ _ hu => hu)
    (hport := fun _ _ _ hu => hu) (htick := fun _ hu => hu) (hcut := fun _ _ _ hu => hu)
    (hkill := fun _ hu => hu.killed) (hraise := fun _ e hu _ _ => hu.raise e)
    (hreset := fun _ _ => wordInv_resetBlock _) (hend := fun _ hu => hu.endRun)
    (heffect := fun i _ _ _ _ _ _ _ hu => hu.effect i)

end Machine
end Sys2Proof
end
